-- ==== Sys2Proof/Word.lean ====
section
/-! DEFINITION. The word and byte types of the host bus and of the registers (20_memory.md R121, R122). -/

namespace Sys2Proof

/-- A 32-bit word: a register, a command, a host bus transfer, a `CB` element. -/
abbrev Word := BitVec 32

/-- An 8-bit sample, or a byte of the stream buffer as the host bus sees it. -/
abbrev Byte := BitVec 8

end Sys2Proof
end

