-- ==== Sys2Proof/Syntax.lean ====
section
/-! DEFINITION. The 40 commands of 30_encoding.md R172, one constructor per row of the opcode table. -/

namespace Sys2Proof

/-- A slot number of the coefficient block memory, 0 .. 31 (10_state.md R72). -/
abbrev Slot := BitVec 5

/-- A 2-bit block coordinate, matrix index or prediction mode (30_encoding.md R170). -/
abbrev Two := BitVec 2

/-- maxNumCoeff, the `mnc` field: `00` = 16, `01` = 15, `10` = 4; `11` is illegal (30_encoding.md R166). -/
inductive Mnc
  | m16
  | m15
  | m4
  deriving DecidableEq, Repr

/-- A plane of the nC grid (10_state.md R77). The `plane` field of format C is an `Option Plane`:
its value `11` (none, chroma DC) is `none` (30_encoding.md R166). -/
inductive Plane
  | y
  | cb
  | cr
  deriving DecidableEq, Repr

/-- A command with its operand fields (30_encoding.md R161 .. R169). -/
inductive Instr
  -- control and moves (45_control.md)
  | nop
  | setr (rsel : BitVec 6) (imm16 : BitVec 16)
  | setrh (rsel : BitVec 6) (imm16 : BitVec 16)
  | gridclr
  | qpdelta
  -- bit cursor (40_bitstream.md)
  | bsrd (n : BitVec 6)
  | bspeek (n : BitVec 6)
  | bsrdue
  | bsrdse
  | bswr (n : BitVec 6)
  | bswrue
  | bswrse
  | bsalign (fill : Bool)
  | bstrail
  | bsmore
  | bsrdme (intra : Bool)
  | bswrme (intra : Bool)
  -- CAVLC and the nC grid (42_cavlc.md)
  | cavlcdec (slot : Slot) (mnc : Mnc) (plane : Option Plane) (ncsel : Bool) (bx byy : Two) (wb : Bool)
  | cavlcenc (slot : Slot) (mnc : Mnc) (plane : Option Plane) (ncsel : Bool) (bx byy : Two) (wb : Bool)
  | ncset (plane : Option Plane) (bx byy : Two) (all : Bool)
  | ncget (plane : Option Plane) (bx byy : Two) (raw : Bool)
  -- zig-zag (41_zigzag.md)
  | zzfwd (d src : Slot) (flag : Bool)
  | zzinv (d src : Slot) (flag : Bool)
  -- transform and quantization (43_transform.md)
  | fcore (d src : Slot)
  | fquant (d src : Slot) (ac : Bool)
  | fhadq (d src : Slot)
  | iquant (d src : Slot) (dc : Bool)
  | idct (d src : Slot)
  | ihadq (d src : Slot)
  | pres (d src t : Slot)
  -- element move and clear (45_control.md)
  | emov (d src : Slot) (dr dc sr sc : Two)
  | zero (d : Slot)
  -- prediction, reconstruction, motion (44_prediction.md)
  | ipred (mode : Two)
  | ipsel
  | rsub (slot : Slot) (bx byy : Two)
  | recon (slot : Slot) (bx byy : Two)
  | rcopy
  | mvpred
  | mvset (res : Bool)
  | mcopy
  deriving DecidableEq, Repr

end Sys2Proof
end

