-- ==== Sys2Proof/WellFormed.lean ====
section
/-! DEFINITION. The value constraints of 30_encoding.md R171 that the field widths do not express. -/

namespace Sys2Proof

/-- `SETR`, `SETRH`: `rsel` is 6 .. 14, a SETR-writable register (30_encoding.md R171). -/
def regWritable (rsel : BitVec 6) : Bool := decide (6 ≤ rsel.toNat) && decide (rsel.toNat ≤ 14)

/-- `BSRD`, `BSPEEK`, `BSWR`: `n <= 32` (30_encoding.md R171). -/
def widthOk (n : BitVec 6) : Bool := decide (n.toNat ≤ 32)

/-- If `plane` is Cb or Cr, then `bx <= 1` and `by <= 1` (30_encoding.md R171). -/
def blockInPlane (p : Plane) (bx byy : Two) : Bool :=
  match p with
  | .y => true
  | .cb => decide (bx.toNat ≤ 1) && decide (byy.toNat ≤ 1)
  | .cr => decide (bx.toNat ≤ 1) && decide (byy.toNat ≤ 1)

/-- `CAVLCDEC`, `CAVLCENC` (30_encoding.md R171): maxNumCoeff is 4 exactly for chroma DC, which has no
grid cell, no `NCREG` selection and no block position. -/
def cavlcFieldsOk (mnc : Mnc) (plane : Option Plane) (ncsel : Bool) (bx byy : Two) (wb : Bool) : Bool :=
  match plane with
  | none => decide (mnc = .m4) && !ncsel && !wb && decide (bx = 0) && decide (byy = 0)
  | some p => !decide (mnc = .m4) && blockInPlane p bx byy

/-- `NCSET` (30_encoding.md R171): no plane only with `all`; `all` has no block position. -/
def ncsetFieldsOk (plane : Option Plane) (bx byy : Two) (all : Bool) : Bool :=
  (!all || (decide (bx = 0) && decide (byy = 0))) &&
  match plane with
  | none => all
  | some p => blockInPlane p bx byy

/-- `NCGET` (30_encoding.md R171): a plane is named. -/
def ncgetFieldsOk (plane : Option Plane) (bx byy : Two) : Bool :=
  match plane with
  | none => false
  | some p => blockInPlane p bx byy

/-- The constraints of 30_encoding.md R171. "Every other combination of field values is legal." -/
def Instr.wellFormed : Instr → Bool
  | .nop => true
  | .setr rsel _ => regWritable rsel
  | .setrh rsel _ => regWritable rsel
  | .gridclr => true
  | .qpdelta => true
  | .bsrd n => widthOk n
  | .bspeek n => widthOk n
  | .bsrdue => true
  | .bsrdse => true
  | .bswr n => widthOk n
  | .bswrue => true
  | .bswrse => true
  | .bsalign _ => true
  | .bstrail => true
  | .bsmore => true
  | .bsrdme _ => true
  | .bswrme _ => true
  | .cavlcdec _ mnc plane ncsel bx byy wb => cavlcFieldsOk mnc plane ncsel bx byy wb
  | .cavlcenc _ mnc plane ncsel bx byy wb => cavlcFieldsOk mnc plane ncsel bx byy wb
  | .ncset plane bx byy all => ncsetFieldsOk plane bx byy all
  | .ncget plane bx byy _ => ncgetFieldsOk plane bx byy
  | .zzfwd _ _ _ => true
  | .zzinv _ _ _ => true
  | .fcore _ _ => true
  | .fquant _ _ _ => true
  | .fhadq _ _ => true
  | .iquant _ _ _ => true
  | .idct _ _ => true
  | .ihadq _ _ => true
  | .pres _ _ _ => true
  | .emov _ _ _ _ _ _ => true
  | .zero _ => true
  | .ipred _ => true
  | .ipsel => true
  | .rsub _ _ _ => true
  | .recon _ _ _ => true
  | .rcopy => true
  | .mvpred => true
  | .mvset _ => true
  | .mcopy => true

end Sys2Proof
end

