-- ==== Sys2Proof/Decode.lean ====
section
/-! DEFINITION. The decoder of 30_encoding.md R160, total on every 32-bit word and rejecting by name, and the
encoder written from the same formats (R161 .. R169) and opcode map (R172). -/

namespace Sys2Proof

/-- Why a word is no command (30_encoding.md R160): each of the three raises `IllegalCommand`. -/
inductive DecodeError
  /-- the opcode is not one of R172 (R173) -/
  | reservedOpcode
  /-- a reserved field is non-zero (R174) -/
  | reservedField
  /-- a value constraint of R171 fails -/
  | badValue
  deriving DecidableEq, Repr

/-- `w[hi:lo]` as a number (00_scope.md R9). -/
def bits (w : Word) (hi lo : Nat) : Nat := w.toNat / 2 ^ lo % 2 ^ (hi + 1 - lo)

/-- The `n`-bit field of `w` whose lowest bit is `lo`. -/
def fieldAt (n : Nat) (w : Word) (lo : Nat) : BitVec n := BitVec.ofNat n (w.toNat / 2 ^ lo)

/-- The one-bit field at bit `k`. -/
def flagAt (w : Word) (k : Nat) : Bool := decide (bits w k k = 1)

/-- The `mnc` field of format C (30_encoding.md R166). -/
def mncOf (v : Nat) : Except DecodeError Mnc :=
  match v with
  | 0 => .ok .m16
  | 1 => .ok .m15
  | 2 => .ok .m4
  | _ => .error .badValue

/-- The `plane` field of format C (30_encoding.md R166). -/
def planeOf (v : Nat) : Option Plane :=
  match v with
  | 0 => some .y
  | 1 => some .cb
  | 2 => some .cr
  | _ => none

/-- The command `i`, when every bit range of `zs` is 0 in `w` (the mask of 30_encoding.md R172). -/
def zeroed (w : Word) (zs : List (Nat × Nat)) (i : Except DecodeError Instr) : Except DecodeError Instr :=
  if zs.all (fun z => decide (bits w z.1 z.2 = 0)) then i else .error .reservedField

/-- Format R (30_encoding.md R163). -/
def decodeR (w : Word) (mk : BitVec 6 → BitVec 16 → Instr) : Except DecodeError Instr :=
  zeroed w [(19, 16)] (.ok (mk (fieldAt 6 w 20) (fieldAt 16 w 0)))

/-- Format C (30_encoding.md R166). -/
def decodeC (w : Word) (mk : Slot → Mnc → Option Plane → Bool → Two → Two → Bool → Instr) :
    Except DecodeError Instr :=
  zeroed w [(10, 0)] (match mncOf (bits w 20 19) with
    | .ok m => .ok (mk (fieldAt 5 w 21) m (planeOf (bits w 18 17)) (flagAt w 16) (fieldAt 2 w 14)
        (fieldAt 2 w 12) (flagAt w 11))
    | .error e => .error e)

/-- Format T with `d`, `s` and `flag` (30_encoding.md R167). -/
def decodeTF (w : Word) (mk : Slot → Slot → Bool → Instr) : Except DecodeError Instr :=
  zeroed w [(15, 11), (9, 0)] (.ok (mk (fieldAt 5 w 21) (fieldAt 5 w 16) (flagAt w 10)))

/-- Format T with `d` and `s` only (30_encoding.md R167). -/
def decodeT (w : Word) (mk : Slot → Slot → Instr) : Except DecodeError Instr :=
  zeroed w [(15, 0)] (.ok (mk (fieldAt 5 w 21) (fieldAt 5 w 16)))

/-- The fields of a word by its opcode (30_encoding.md R161, R172), before the constraints of R171. -/
def decodeFields (w : Word) : Except DecodeError Instr :=
  match bits w 31 26 with
  | 0x00 => zeroed w [(25, 0)] (.ok .nop)
  | 0x01 => decodeR w .setr
  | 0x02 => decodeR w .setrh
  | 0x03 => zeroed w [(25, 0)] (.ok .gridclr)
  | 0x04 => zeroed w [(25, 0)] (.ok .qpdelta)
  | 0x08 => zeroed w [(25, 6)] (.ok (.bsrd (fieldAt 6 w 0)))
  | 0x09 => zeroed w [(25, 6)] (.ok (.bspeek (fieldAt 6 w 0)))
  | 0x0A => zeroed w [(25, 0)] (.ok .bsrdue)
  | 0x0B => zeroed w [(25, 0)] (.ok .bsrdse)
  | 0x0C => zeroed w [(25, 6)] (.ok (.bswr (fieldAt 6 w 0)))
  | 0x0D => zeroed w [(25, 0)] (.ok .bswrue)
  | 0x0E => zeroed w [(25, 0)] (.ok .bswrse)
  | 0x0F => zeroed w [(25, 1)] (.ok (.bsalign (flagAt w 0)))
  | 0x10 => zeroed w [(25, 0)] (.ok .bstrail)
  | 0x11 => zeroed w [(25, 0)] (.ok .bsmore)
  | 0x12 => zeroed w [(25, 1)] (.ok (.bsrdme (flagAt w 0)))
  | 0x13 => zeroed w [(25, 1)] (.ok (.bswrme (flagAt w 0)))
  | 0x18 => decodeC w .cavlcdec
  | 0x19 => decodeC w .cavlcenc
  | 0x1A => zeroed w [(25, 19), (16, 16), (10, 0)]
      (.ok (.ncset (planeOf (bits w 18 17)) (fieldAt 2 w 14) (fieldAt 2 w 12) (flagAt w 11)))
  | 0x1B => zeroed w [(25, 19), (16, 16), (10, 0)]
      (.ok (.ncget (planeOf (bits w 18 17)) (fieldAt 2 w 14) (fieldAt 2 w 12) (flagAt w 11)))
  | 0x20 => decodeTF w .zzfwd
  | 0x21 => decodeTF w .zzinv
  | 0x22 => decodeT w .fcore
  | 0x23 => decodeTF w .fquant
  | 0x24 => decodeT w .fhadq
  | 0x25 => decodeTF w .iquant
  | 0x26 => decodeT w .idct
  | 0x27 => decodeT w .ihadq
  | 0x28 => zeroed w [(10, 0)] (.ok (.pres (fieldAt 5 w 21) (fieldAt 5 w 16) (fieldAt 5 w 11)))
  | 0x29 => zeroed w [(7, 0)] (.ok (.emov (fieldAt 5 w 21) (fieldAt 5 w 16) (fieldAt 2 w 14)
      (fieldAt 2 w 12) (fieldAt 2 w 10) (fieldAt 2 w 8)))
  | 0x2A => zeroed w [(20, 0)] (.ok (.zero (fieldAt 5 w 21)))
  | 0x30 => zeroed w [(25, 2)] (.ok (.ipred (fieldAt 2 w 0)))
  | 0x31 => zeroed w [(25, 0)] (.ok .ipsel)
  | 0x32 => zeroed w [(20, 16), (11, 0)] (.ok (.rsub (fieldAt 5 w 21) (fieldAt 2 w 14) (fieldAt 2 w 12)))
  | 0x33 => zeroed w [(20, 16), (11, 0)] (.ok (.recon (fieldAt 5 w 21) (fieldAt 2 w 14) (fieldAt 2 w 12)))
  | 0x34 => zeroed w [(25, 0)] (.ok .rcopy)
  | 0x38 => zeroed w [(25, 0)] (.ok .mvpred)
  | 0x39 => zeroed w [(25, 1)] (.ok (.mvset (flagAt w 0)))
  | 0x3A => zeroed w [(25, 0)] (.ok .mcopy)
  | _ => .error .reservedOpcode

/-- The decode procedure of 30_encoding.md R160: opcode, reserved fields, value constraints. -/
def decode (w : Word) : Except DecodeError Instr :=
  match decodeFields w with
  | .ok i => if i.wellFormed then .ok i else .error .badValue
  | .error e => .error e

/-- The decoder's answer on the 32-bit word `w` of the opcode table's numbering: every command is one word
written to `CMD` (30_encoding.md R175), so no byte order intervenes; bits from `nbits` up are 0. -/
def decodeTableWord (nbits w : Nat) : Option Instr :=
  match decode (BitVec.ofNat 32 (w % 2 ^ nbits)) with
  | .ok i => some i
  | .error _ => none

/-- A word from its opcode and the value of bits 25 .. 0 (30_encoding.md R161). -/
def wordOf (op rest : Nat) : Word := BitVec.ofNat 32 (op * 2 ^ 26 + rest)

def mncCode : Mnc → Nat
  | .m16 => 0
  | .m15 => 1
  | .m4 => 2

def planeCode : Option Plane → Nat
  | some .y => 0
  | some .cb => 1
  | some .cr => 2
  | none => 3

/-- Bits 25 .. 0 of format C (30_encoding.md R166). -/
def restC (slot : Slot) (mnc : Mnc) (plane : Option Plane) (ncsel : Bool) (bx byy : Two) (wb : Bool) : Nat :=
  slot.toNat * 2 ^ 21 + mncCode mnc * 2 ^ 19 + planeCode plane * 2 ^ 17 + ncsel.toNat * 2 ^ 16
    + bx.toNat * 2 ^ 14 + byy.toNat * 2 ^ 12 + wb.toNat * 2 ^ 11

/-- Bits 25 .. 0 of format T (30_encoding.md R167). -/
def restT (d src t : Slot) (flag : Bool) : Nat :=
  d.toNat * 2 ^ 21 + src.toNat * 2 ^ 16 + t.toNat * 2 ^ 11 + flag.toNat * 2 ^ 10

/-- Bits 25 .. 0 of format P with a slot and a block (30_encoding.md R169). -/
def restP (slot : Slot) (bx byy : Two) : Nat :=
  slot.toNat * 2 ^ 21 + bx.toNat * 2 ^ 14 + byy.toNat * 2 ^ 12

/-- The word of a command (30_encoding.md R161 .. R169, R172). -/
def encode : Instr → Word
  | .nop => wordOf 0x00 0
  | .setr rsel imm16 => wordOf 0x01 (rsel.toNat * 2 ^ 20 + imm16.toNat)
  | .setrh rsel imm16 => wordOf 0x02 (rsel.toNat * 2 ^ 20 + imm16.toNat)
  | .gridclr => wordOf 0x03 0
  | .qpdelta => wordOf 0x04 0
  | .bsrd n => wordOf 0x08 n.toNat
  | .bspeek n => wordOf 0x09 n.toNat
  | .bsrdue => wordOf 0x0A 0
  | .bsrdse => wordOf 0x0B 0
  | .bswr n => wordOf 0x0C n.toNat
  | .bswrue => wordOf 0x0D 0
  | .bswrse => wordOf 0x0E 0
  | .bsalign fill => wordOf 0x0F fill.toNat
  | .bstrail => wordOf 0x10 0
  | .bsmore => wordOf 0x11 0
  | .bsrdme intra => wordOf 0x12 intra.toNat
  | .bswrme intra => wordOf 0x13 intra.toNat
  | .cavlcdec slot mnc plane ncsel bx byy wb => wordOf 0x18 (restC slot mnc plane ncsel bx byy wb)
  | .cavlcenc slot mnc plane ncsel bx byy wb => wordOf 0x19 (restC slot mnc plane ncsel bx byy wb)
  | .ncset plane bx byy all => wordOf 0x1A (restC 0 .m16 plane false bx byy all)
  | .ncget plane bx byy raw => wordOf 0x1B (restC 0 .m16 plane false bx byy raw)
  | .zzfwd d src flag => wordOf 0x20 (restT d src 0 flag)
  | .zzinv d src flag => wordOf 0x21 (restT d src 0 flag)
  | .fcore d src => wordOf 0x22 (restT d src 0 false)
  | .fquant d src ac => wordOf 0x23 (restT d src 0 ac)
  | .fhadq d src => wordOf 0x24 (restT d src 0 false)
  | .iquant d src dc => wordOf 0x25 (restT d src 0 dc)
  | .idct d src => wordOf 0x26 (restT d src 0 false)
  | .ihadq d src => wordOf 0x27 (restT d src 0 false)
  | .pres d src t => wordOf 0x28 (restT d src t false)
  | .emov d src dr dc sr sc => wordOf 0x29 (restT d src 0 false + dr.toNat * 2 ^ 14 + dc.toNat * 2 ^ 12
      + sr.toNat * 2 ^ 10 + sc.toNat * 2 ^ 8)
  | .zero d => wordOf 0x2A (restT d 0 0 false)
  | .ipred mode => wordOf 0x30 mode.toNat
  | .ipsel => wordOf 0x31 0
  | .rsub slot bx byy => wordOf 0x32 (restP slot bx byy)
  | .recon slot bx byy => wordOf 0x33 (restP slot bx byy)
  | .rcopy => wordOf 0x34 0
  | .mvpred => wordOf 0x38 0
  | .mvset res => wordOf 0x39 res.toNat
  | .mcopy => wordOf 0x3A 0

end Sys2Proof
end

