-- ==== Sys2Proof/Config.lean ====
section
/-! DEFINITION. The implementation parameters of 00_scope.md R7, and the one free value of the model. -/

namespace Sys2Proof

/-- `NC_RULE`: how nC is formed where exactly one neighbour is available (42_cavlc.md R283). -/
inductive NcRule
  | itu
  | zeroSubst
  deriving DecidableEq, Repr

/-- `FWD_ROUND`: the rounding of forward quantization (43_transform.md R384). -/
inductive FwdRound
  | halfAway
  | halfEven
  deriving DecidableEq, Repr

/-- `MV_SHIFT`: 0 (a vector counts whole samples) or 2 (quarter samples), 44_prediction.md R466. -/
inductive MvShift
  | whole
  | quarter
  deriving DecidableEq, Repr

/-- The parameters of 00_scope.md R7. "A model takes each `OPEN` parameter as an argument": they stand
in `State.params`, which no step changes, so a statement about every state holds for all their values. -/
structure Params where
  /-- `BSB_BYTES`, the size of the bitstream buffer in bytes. -/
  bsbBytes : Nat
  /-- `MAX_W_MBS`, the largest picture width in macroblocks. -/
  maxWMbs : Nat
  /-- `MAX_H_MBS`, the largest picture height in macroblocks. -/
  maxHMbs : Nat
  ncRule : NcRule
  fwdRound : FwdRound
  mvShift : MvShift
  /-- `PRES_A`, a 4×4 integer matrix in raster order (43_transform.md R392). -/
  presA : List Int
  deriving DecidableEq, Repr

/-- The ranges that 00_scope.md R7 gives the parameters. -/
def Params.wf (p : Params) : Bool :=
  decide (1 ≤ p.bsbBytes) && decide (p.bsbBytes ≤ 2 ^ 28)
    && decide (1 ≤ p.maxWMbs) && decide (p.maxWMbs ≤ 255)
    && decide (1 ≤ p.maxHMbs) && decide (p.maxHMbs ≤ 255)
    && decide (p.presA.length = 16)

/-- The parameter values of the vectors of 95_test_vectors.md. DESIGN CHOICE, unsafe (log 1): `State.reset`
takes them, since R7 leaves five of them open; `NC_RULE` and `FWD_ROUND` are the decided defaults. -/
def Params.vectors : Params where
  bsbBytes := 64
  maxWMbs := 4
  maxHMbs := 4
  ncRule := .itu
  fwdRound := .halfAway
  mvShift := .whole
  presA := List.replicate 16 1

/-- FREE VALUE (20_memory.md R123): what the n-th host read of anything but `ID` and `STATUS` returns
while `STATUS.BUSY = 1`. Nothing is known of it (log 4). -/
opaque Config.busyRead : Nat → Word

end Sys2Proof
end

