-- ==== Sys2Proof/Machine/State.lean ====
section
/-! DEFINITION. The state of the block (10_state.md), with the host's moves still to come, the model's faults
and refusals, and the state after power-on reset (10_state.md R85, 70_reset_and_hazards.md R610). -/

namespace Sys2Proof.Machine

/-- Sparse storage by key: an entry that is not listed has never been written (10_state.md R83).
Canonical form: keys strictly rising (`cellsRising`, Machine/Ops.lean). -/
abbrev Cells (α : Type) := List (Nat × α)

/-- The error codes of 60_exceptions.md R560. Codes 8 .. 15 are never produced. -/
inductive ErrCode
  | none
  | bitstreamExhausted
  | malformedVlcCode
  /-- code 3: for the host's use; no command raises it (R563) -/
  | unsupportedFeature
  | invalidFieldValue
  | contextNotWritten
  | arithOverflow
  | illegalCommand
  deriving DecidableEq, Repr

/-- A cell of the nC grid (10_state.md R77). `tc` is unreadable while `valid` is false (R82). -/
structure NcCell where
  valid : Bool
  /-- TotalCoeff, 0 .. 16 -/
  tc : Nat
  deriving DecidableEq, Repr

/-- A cell of the motion-vector grid (10_state.md R78). The vector is unreadable while `valid` is false. -/
structure MvCell where
  valid : Bool
  mvx : BitVec 16
  mvy : BitVec 16
  deriving DecidableEq, Repr

/-- What the host may do (70_reset_and_hazards.md R617): it has no other move. -/
inductive HostAction
  /-- a word written on the host bus at a byte offset -/
  | write (offset data : Word)
  /-- a word read on the host bus at a byte offset -/
  | read (offset : Word)
  /-- the host stores a sample of the reference frame `REF` in its own memory -/
  | supplyRef (y x : BitVec 12) (v : Byte)
  /-- the host stores a sample of the reconstructed frame `REC` in its own memory -/
  | supplyRec (y x : BitVec 12) (v : Byte)
  deriving DecidableEq, Repr

/-- A host action with the moment it lands: `whileBusy` bus accesses do not wait for `STATUS.BUSY = 0`.
DESIGN CHOICE (log 2): the spec gives the time of a command no value (70_reset_and_hazards.md R614, R618). -/
structure HostMove where
  whileBusy : Bool
  action : HostAction
  deriving DecidableEq, Repr

/-- Why a run stops. -/
inductive Fault
  /-- `Fault(UndefinedRead)`: raised by a command, or a host bus read, that reads an element of `CB`, `PRED`,
  `SRC`, `REC` or `REF`, or a bit of `BSB`, that nothing has written (10_state.md R83, 60_exceptions.md R574;
  host reads: log 5). Safe: the hardware goes on with an unspecified value. -/
  | undefinedRead
  deriving DecidableEq, Repr

/-- Why the model gives a command no meaning. -/
inductive Refusal
  /-- raised by an arm of `exec` that has no meaning yet; no arm of this model does. Safe. -/
  | notModelled (mnemonic : String)
  deriving DecidableEq, Repr

/-- Whose turn it is: plain data of the state decides (log 2). -/
inductive Turn
  /-- the engine executes `CMDLATCH` -/
  | engine
  /-- the host makes the move `m`, with `ms` still to come -/
  | host (m : HostMove) (ms : List HostMove)
  /-- nothing is pending: the block waits idle (70_reset_and_hazards.md R612) -/
  | idle
  deriving DecidableEq, Repr

/-- Everything 10_state.md gives the block, the external frames of R79 and R80, and the model's own fields.
`ID`, `CTRL` and `CMD` have no storage: they read as constants (R53, R54, R56). -/
structure State where
  /-- the implementation parameters (00_scope.md R7); no step changes them (log 1) -/
  params : Params
  /-- STATUS.BUSY (R55) -/
  busy : Bool
  /-- STATUS.DONE (R55) -/
  done : Bool
  /-- STATUS.ERR (R55) -/
  err : Bool
  /-- STATUS.DROP (R55) -/
  drop : Bool
  /-- STATUS.ERRCODE (R55) -/
  errcode : ErrCode
  /-- CMDLATCH (R81) -/
  cmdlatch : Word
  /-- ERRCMD (R57) -/
  errcmd : Word
  /-- ERRPOS (R58) -/
  errpos : Word
  /-- RES (R59) -/
  res : Word
  /-- OPR (R60) -/
  opr : Word
  /-- QP, bits 5:0 (R61) -/
  qp : BitVec 6
  /-- SLICEQP, bits 5:0 (R63) -/
  sliceqp : BitVec 6
  /-- BITPOS (R64) -/
  bitpos : Word
  /-- BITLEN (R65) -/
  bitlen : Word
  /-- PICDIM, WMBS in 7:0 and HMBS in 15:8 (R62) -/
  picdim : BitVec 16
  /-- MBPOS, MBX in 7:0 and MBY in 15:8 (R66) -/
  mbpos : BitVec 16
  /-- NCREG, bits 7:0 (R67) -/
  ncreg : BitVec 8
  /-- CVSTAT (R68) -/
  cvstat : Word
  /-- SAE, bits 16:0 (R69) -/
  sae : BitVec 17
  /-- CB, keyed by `cbKey` (R72) -/
  cb : Cells Word
  /-- PRED, sample (y, x) at key 16*y + x (R74) -/
  pred : Cells Byte
  /-- SRC, sample (y, x) at key 16*y + x (R75) -/
  src : Cells Byte
  /-- BSB, by stream bit (R76) -/
  bsb : Cells Bool
  /-- NCG, keyed by `ncKey` (R77) -/
  ncg : Cells NcCell
  /-- MVG, keyed by `mvKey` (R78) -/
  mvg : Cells MvCell
  /-- REC, keyed by `frameKey` (R79) -/
  recFrame : Cells Byte
  /-- REF, keyed by `frameKey` (R80) -/
  refFrame : Cells Byte
  /-- MODEL: the host's moves still to come (log 2) -/
  host : List HostMove
  /-- MODEL: the word the last host bus read returned (log 3) -/
  hostData : Word
  /-- MODEL: how many unspecified bus reads have been drawn (log 4) -/
  draws : Nat
  deriving DecidableEq, Repr

/-- Power-on reset with given parameters (10_state.md R85, 70_reset_and_hazards.md R610): every register 0,
every valid bit 0, memory contents unwritten. -/
def State.powerOn (p : Params) : State where
  params := p
  busy := false
  done := false
  err := false
  drop := false
  errcode := .none
  cmdlatch := 0
  errcmd := 0
  errpos := 0
  res := 0
  opr := 0
  qp := 0
  sliceqp := 0
  bitpos := 0
  bitlen := 0
  picdim := 0
  mbpos := 0
  ncreg := 0
  cvstat := 0
  sae := 0
  cb := []
  pred := []
  src := []
  bsb := []
  ncg := []
  mvg := []
  recFrame := []
  refFrame := []
  host := []
  hostData := 0
  draws := 0

/-- The machine right after power-on reset, with the parameters of 95_test_vectors.md (log 1). -/
def State.reset : State := State.powerOn Params.vectors

end Sys2Proof.Machine
end

