-- ==== Sys2Proof/Machine/Ops.lean ====
section
/-! DEFINITION. The named operations of the machine: sparse storage, the result of a command, the error end and
the return from it (60_exceptions.md R566, R575), registers (10_state.md R52 .. R71) and the stream (40_bitstream.md R220). -/

namespace Sys2Proof.Machine

/-! Sparse storage. -/

/-- The entry at key `a`, if anything has written it. -/
def cellRead {α : Type} : Cells α → Nat → Option α
  | [], _ => none
  | (k, v) :: m, a => if k = a then some v else cellRead m a

/-- Write `v` at key `a`, keeping the keys strictly rising. -/
def cellWrite {α : Type} (a : Nat) (v : α) : Cells α → Cells α
  | [] => [(a, v)]
  | (k, w) :: m =>
    if a < k then (a, v) :: (k, w) :: m
    else if a = k then (a, v) :: m
    else (k, w) :: cellWrite a v m

/-- Write a list of entries (with no key twice). -/
def cellWriteAll {α : Type} (m : Cells α) (entries : List (Nat × α)) : Cells α :=
  entries.foldr (fun e m => cellWrite e.1 e.2 m) m

/-- The canonical form: keys strictly rising. An unlisted entry reads as "never written", so no listed entry
equals what an unlisted one reads as. -/
abbrev cellsRising {α : Type} (m : Cells α) : Prop := (m.map Prod.fst).Pairwise (· < ·)

/-- Every memory of the state is in its canonical form. -/
abbrev Memory.wf (s : State) : Prop :=
  cellsRising s.cb ∧ cellsRising s.pred ∧ cellsRising s.src ∧ cellsRising s.bsb ∧
  cellsRising s.ncg ∧ cellsRising s.mvg ∧ cellsRising s.recFrame ∧ cellsRising s.refFrame

/-! The result of a command. -/

/-- Why a command stops before completing: it raises an error with the value for `ERRPOS`
(60_exceptions.md R566), or the model faults (R574). -/
inductive Stop
  | raise (e : ErrCode) (info : Nat)
  | fault (f : Fault)
  deriving DecidableEq, Repr

/-- A command, or a part of one: all-or-nothing, so a stop carries no state (60_exceptions.md R566). -/
abbrev Cmd (α : Type) := Except Stop α

/-- `raise E(info)` (00_scope.md R11). -/
def raise {α : Type} (e : ErrCode) (info : Nat) : Cmd α := .error (.raise e info)

/-- Raise `e` unless the check holds. -/
def require (ok : Bool) (e : ErrCode) (info : Nat) : Cmd Unit := if ok then .ok () else raise e info

/-- A read of storage: an entry nothing has written is `Fault(UndefinedRead)` (10_state.md R83). -/
def written {α : Type} : Option α → Cmd α
  | some v => .ok v
  | none => .error (.fault .undefinedRead)

/-- Run a read for each item, in order. -/
def readEach {α β : Type} (f : β → Cmd α) : List β → Cmd (List α)
  | [] => .ok []
  | b :: bs => do
    let v ← f b
    let vs ← readEach f bs
    pure (v :: vs)

/-! The ends of a command (60_exceptions.md R566) and the return from an error (R575). -/

/-- A command raises error `e` with `info`: nothing but the error registers and the flags changes. -/
def errorEnd (s : State) (e : ErrCode) (info : Nat) : State :=
  { s with err := true, errcode := e, errcmd := s.cmdlatch, errpos := BitVec.ofNat 32 info,
           busy := false, done := false }

/-- A command completes. -/
def complete (s : State) : State := { s with busy := false, done := true }

/-- `CTRL.ERRCLR`: the return from an error. `ERRCMD`, `ERRPOS`, `DONE` and `DROP` keep their values. -/
def errorClear (s : State) : State := { s with err := false, errcode := .none }

/-- End the command whose result is `c`: completion, the error end of the state before it, or the fault. -/
def runCommand (s : State) (c : Cmd State) : Host.Outcome State Fault Refusal :=
  match c with
  | .ok t => .next (complete t)
  | .error (.raise e info) => .next (errorEnd s e info)
  | .error (.fault f) => .fault f

/-- `reg[BITPOS]` at the start of the command, the `ERRPOS` of every error not found while reading the stream
(60_exceptions.md R567). -/
def here (s : State) : Nat := s.bitpos.toNat

/-- The first check of every command (30_encoding.md R160, 60_exceptions.md R570): the value constraints of R171. -/
def legal (ok : Bool) (s : State) : Cmd Unit := require ok .illegalCommand (here s)

/-! The valid bits of the grids. -/

/-- Every `valid` bit of the nC grid 0; the `tc` values stay, unreadable (45_control.md R513, 10_state.md R85). -/
def invalidateNc (m : Cells NcCell) : Cells NcCell := m.map (fun e => (e.1, { e.2 with valid := false }))

/-- Every `valid` bit of the motion-vector grid 0; the vectors stay, unreadable. -/
def invalidateMv (m : Cells MvCell) : Cells MvCell := m.map (fun e => (e.1, { e.2 with valid := false }))

/-! Registers. -/

/-- The size of the stream buffer in bits. -/
def bufferBits (s : State) : Nat := 8 * s.params.bsbBytes

/-- The WARL clamp of `BITPOS` and `BITLEN` (10_state.md R64, R65). -/
def clampToBuffer (s : State) (v : Word) : Word := BitVec.ofNat 32 (min v.toNat (bufferBits s))

/-- 10_state.md R53. -/
def idValue : Word := 0x50594301

/-- The code of an error (60_exceptions.md R560). -/
def errNumber : ErrCode → BitVec 4
  | .none => 0
  | .bitstreamExhausted => 1
  | .malformedVlcCode => 2
  | .unsupportedFeature => 3
  | .invalidFieldValue => 4
  | .contextNotWritten => 5
  | .arithOverflow => 6
  | .illegalCommand => 7

/-- `STATUS` as the host reads it: BUSY 0, DONE 1, ERR 2, DROP 3, ERRCODE 11:8 (10_state.md R55). -/
def statusWord (s : State) : Word :=
  BitVec.ofNat 32 (s.busy.toNat + 2 * s.done.toNat + 4 * s.err.toNat + 8 * s.drop.toNat
    + 256 * (errNumber s.errcode).toNat)

/-- A read of register `i` (10_state.md R52, R70). -/
def readReg (s : State) (i : Nat) : Word :=
  match i with
  | 0 => idValue
  | 1 => 0
  | 2 => statusWord s
  | 3 => 0
  | 4 => s.errcmd
  | 5 => s.errpos
  | 6 => s.res
  | 7 => s.opr
  | 8 => s.qp.setWidth 32
  | 9 => s.sliceqp.setWidth 32
  | 10 => s.bitpos
  | 11 => s.bitlen
  | 12 => s.picdim.setWidth 32
  | 13 => s.mbpos.setWidth 32
  | 14 => s.ncreg.setWidth 32
  | 15 => s.cvstat
  | 16 => s.sae.setWidth 32
  | _ => 0

/-- `WriteReg` (10_state.md R71): the defined fields of a writable register, with the WARL clamps; a write to a
read-only or reserved register is ignored. -/
def writeReg (s : State) (i : Nat) (v : Word) : State :=
  match i with
  | 6 => { s with res := v }
  | 7 => { s with opr := v }
  | 8 => { s with qp := v.setWidth 6 }
  | 9 => { s with sliceqp := v.setWidth 6 }
  | 10 => { s with bitpos := clampToBuffer s v }
  | 11 => { s with bitlen := clampToBuffer s v }
  | 12 => { s with picdim := v.setWidth 16 }
  | 13 => { s with mbpos := v.setWidth 16 }
  | 14 => { s with ncreg := v.setWidth 8 }
  | _ => s

/-! The stream (40_bitstream.md R220). `BSB` is kept by stream bit. -/

/-- `StreamBit(k)`. -/
def streamBit (s : State) (k : Nat) : Cmd Bool := written (cellRead s.bsb k)

/-- A bit string as a number, first bit most significant (20_memory.md R125). -/
def bitsValue (bs : List Bool) : Nat := bs.foldl (fun v b => 2 * v + b.toNat) 0

/-- The low `n` bits of `v`, most significant first (20_memory.md R125). -/
def msbBits (n v : Nat) : List Bool := (List.range n).map (fun i => v.testBit (n - 1 - i))

/-- A read that needs `n` bits at `pos` (40_bitstream.md R220); `start` is where the syntax element began. -/
def needBits (s : State) (start pos n : Nat) : Cmd Unit :=
  require (decide (pos + n ≤ s.bitlen.toNat)) .bitstreamExhausted start

/-- The `n` bits at `pos` as a number (no limit check). -/
def streamBits (s : State) (pos n : Nat) : Cmd Nat := do
  let bs ← readEach (streamBit s) (List.range' pos n)
  pure (bitsValue bs)

/-- The bit string at `pos`, as entries of `BSB`. -/
def bitEntries (pos : Nat) (code : List Bool) : List (Nat × Bool) := (List.range' pos code.length).zip code

/-- Write a bit string at `BITPOS` and advance: `BITLEN <- max(BITLEN, pos + n)` (40_bitstream.md R220). -/
def putBits (s : State) (code : List Bool) : State :=
  { s with bsb := cellWriteAll s.bsb (bitEntries (here s) code),
           bitpos := BitVec.ofNat 32 (here s + code.length),
           bitlen := BitVec.ofNat 32 (max s.bitlen.toNat (here s + code.length)) }

/-- A write of a bit string at `BITPOS` that must fit the buffer (40_bitstream.md R220, 60_exceptions.md R561). -/
def writeBits (s : State) (code : List Bool) : Cmd State := do
  require (decide (here s + code.length ≤ bufferBits s)) .bitstreamExhausted (here s)
  pure (putBits s code)

end Sys2Proof.Machine
end

