-- ==== Sys2Proof/Machine/Operands.lean ====
section
/-! DEFINITION. The operands of commands: field values (30_encoding.md R170), coefficient slots (10_state.md R72),
the macroblock's position with its checks (60_exceptions.md R571) and the keys of the memories. -/

namespace Sys2Proof.Machine

/-! Field values (30_encoding.md R170). -/

/-- The `SETR` immediate, `sext_32(imm16)`. -/
def setrValue (imm16 : BitVec 16) : Word := imm16.signExtend 32

/-- The `SETRH` value: the immediate over the register's low half (45_control.md R512). -/
def setrhValue (imm16 : BitVec 16) (old : Word) : Word :=
  BitVec.ofNat 32 (imm16.toNat * 2 ^ 16 + old.toNat % 2 ^ 16)

/-- maxNumCoeff. -/
def mncLen : Mnc → Nat
  | .m16 => 16
  | .m15 => 15
  | .m4 => 4

/-! Coefficient slots. A block is the 16 elements of a slot in raster order, as integers; this is the vector
view too (10_state.md R73). -/

abbrev Block := List Int

/-- `M[r][c]`. -/
def Block.at (b : Block) (r c : Nat) : Int := List.getD b (4 * r + c) 0

/-- The block with the given elements. -/
def mkBlock (f : Nat → Nat → Int) : Block := (List.range 16).map (fun k => f (k / 4) (k % 4))

/-- Where `CB[slot][r][c]` is kept, with `k = 4*r + c`. -/
def cbKey (slot : Slot) (k : Nat) : Nat := 16 * slot.toNat + k

/-- Read element `k` of a slot. -/
def readElem (s : State) (slot : Slot) (k : Nat) : Cmd Int := do
  let v ← written (cellRead s.cb (cbKey slot k))
  pure v.toInt

/-- Read a whole slot. -/
def readSlot (s : State) (slot : Slot) : Cmd Block := readEach (readElem s slot) (List.range 16)

/-- The entries of a slot holding the block `b`. -/
def slotEntries (slot : Slot) (b : Block) : List (Nat × Word) :=
  (List.range 16).map (fun k => (cbKey slot k, BitVec.ofInt 32 (b.getD k 0)))

/-- Write a whole slot; the values fit 32 bits (moves, clears and decoded levels do). -/
def writeSlot (s : State) (slot : Slot) (b : Block) : State :=
  { s with cb := cellWriteAll s.cb (slotEntries slot b) }

/-- `-2^31 .. 2^31 - 1` (43_transform.md R380). -/
def fitsElement (x : Int) : Bool := decide (-(2 ^ 31) ≤ x) && decide (x ≤ 2 ^ 31 - 1)

/-- Store a transform's result: `ArithOverflow`, and nothing written, when an element does not fit
(43_transform.md R380, 60_exceptions.md R568). -/
def storeBlock (s : State) (slot : Slot) (b : Block) : Cmd State := do
  require (b.all fitsElement) .arithOverflow (here s)
  pure (writeSlot s slot b)

/-! The picture and the macroblock. -/

/-- `PICDIM.WMBS` (10_state.md R62). -/
def wmbs (s : State) : Nat := s.picdim.toNat % 256

/-- `PICDIM.HMBS`. -/
def hmbs (s : State) : Nat := s.picdim.toNat / 256

/-- `MBPOS.MBX` (10_state.md R66). -/
def mbx (s : State) : Nat := s.mbpos.toNat % 256

/-- `MBPOS.MBY`. -/
def mby (s : State) : Nat := s.mbpos.toNat / 256

/-- `PICDIM` is legal (60_exceptions.md R571). -/
def picdimOk (s : State) : Bool :=
  decide (1 ≤ wmbs s) && decide (wmbs s ≤ s.params.maxWMbs) && decide (1 ≤ hmbs s) && decide (hmbs s ≤ s.params.maxHMbs)

/-- `MBPOS` is inside the picture (60_exceptions.md R571). -/
def mbposOk (s : State) : Bool := decide (mbx s < wmbs s) && decide (mby s < hmbs s)

/-- Check `PICDIM`, then `MBPOS` (44_prediction.md R450, 42_cavlc.md R281). -/
def checkPicture (s : State) : Cmd Unit := do
  require (picdimOk s) .invalidFieldValue (here s)
  require (mbposOk s) .invalidFieldValue (here s)

/-- Check `QP <= 51` (43_transform.md R380). -/
def checkQp (s : State) : Cmd Unit := require (decide (s.qp.toNat ≤ 51)) .invalidFieldValue (here s)

/-- Blocks of a macroblock per side in a plane of the nC grid: 4 for Y, 2 for Cb and Cr (10_state.md R77). -/
def planeBlocks : Plane → Nat
  | .y => 4
  | .cb => 2
  | .cr => 2

def planeIndex : Plane → Nat
  | .y => 0
  | .cb => 1
  | .cr => 2

/-- Where the `NCG` cell at column `gx`, row `gy` of a plane is kept; `gx` is below 1024. -/
def ncKey (p : Plane) (gx gy : Nat) : Nat := planeIndex p * 2 ^ 20 + gy * 1024 + gx

/-- The column of block `bx` of the current macroblock: `Cell(p, bx, by)` (42_cavlc.md R281). -/
def cellX (s : State) (p : Plane) (bx : Nat) : Nat := planeBlocks p * mbx s + bx

/-- The row of block `by` of the current macroblock. -/
def cellY (s : State) (p : Plane) (byy : Nat) : Nat := planeBlocks p * mby s + byy

/-- Where the `MVG` cell of macroblock `(mx, my)` is kept; `mx` is below 256. -/
def mvKey (mx my : Nat) : Nat := my * 256 + mx

/-- Where the sample `(y, x)` of `REC` or `REF` is kept; `x` is below 4096 (log 6). -/
def frameKey (y x : Nat) : Nat := y * 4096 + x

/-- The luma origin of the macroblock (44_prediction.md R450). -/
def originX (s : State) : Nat := 16 * mbx s

def originY (s : State) : Nat := 16 * mby s

/-- The luma plane size (44_prediction.md R450). -/
def planeW (s : State) : Nat := 16 * wmbs s

def planeH (s : State) : Nat := 16 * hmbs s

/-! Samples. A macroblock of samples is the 256 values in raster order. -/

abbrev Samples := List Int

/-- The samples with the given values. -/
def mkSamples (f : Nat → Nat → Int) : Samples := (List.range 256).map (fun k => f (k / 16) (k % 16))

/-- Read a sample of a memory of bytes. -/
def readSample (m : Cells Byte) (key : Nat) : Cmd Int := do
  let v ← written (cellRead m key)
  pure (v.toNat : Int)

/-- `PRED[y][x]` or `SRC[y][x]`, by memory. -/
def bufKey (y x : Nat) : Nat := 16 * y + x

/-- All 256 samples of `PRED` or `SRC`. -/
def readSamples (m : Cells Byte) : Cmd Samples := readEach (readSample m) (List.range 256)

/-- A sample value as a byte: the values stored are in 0 .. 255. -/
def toByte (x : Int) : Byte := BitVec.ofInt 8 x

/-- Write the prediction buffer (10_state.md R74). -/
def writePred (s : State) (p : Samples) : State :=
  { s with pred := cellWriteAll s.pred ((List.range 256).map (fun k => (k, toByte (p.getD k 0)))) }

/-- `Clip3(lo, hi, x)` (00_scope.md R9). -/
def clip3 (lo hi x : Int) : Int := min hi (max lo x)

/-- `Clip1(x)` (00_scope.md R9). -/
def clip1 (x : Int) : Int := clip3 0 255 x

end Sys2Proof.Machine
end

