-- ==== Sys2Proof/Machine/Bitstream.lean ====
section
/-! DEFINITION. The bit cursor commands of 40_bitstream.md: BSRD, BSPEEK, BSRDUE, BSRDSE, BSWR, BSWRUE, BSWRSE,
BSALIGN, BSTRAIL, BSMORE, BSRDME, BSWRME. -/

namespace Sys2Proof.Machine

/-! Codewords. -/

/-- Count the 0 bits before the next 1, which is consumed: the number of zeros and the position after the 1. The
`room`-th zero raises `MalformedVlcCode`; the end of the stream `BitstreamExhausted`; both at `start`, where the
syntax element began (40_bitstream.md R221, 42_cavlc.md R295). -/
def countZeros (s : State) (start : Nat) : Nat → Nat → Nat → Cmd (Nat × Nat)
  | 0, _, _ => raise .malformedVlcCode start
  | room + 1, pos, zeros => do
    needBits s start pos 1
    let b ← streamBit s pos
    if b then pure (zeros, pos + 1) else countZeros s start room (pos + 1) (zeros + 1)

/-- `ReadUE(pos)`: the value and the position after the codeword (40_bitstream.md R221). At most 31 zeros. -/
def readUe (s : State) (start : Nat) : Cmd (Nat × Nat) := do
  let (zeros, pos) ← countZeros s start 32 start 0
  needBits s start pos zeros
  let suffix ← streamBits s pos zeros
  pure (2 ^ zeros - 1 + suffix, pos + zeros)

/-- `WriteUE`: the codeword of `v`, `L` zeros and the `L + 1` bits of `v + 1` (40_bitstream.md R221). -/
def ueCode (v : Nat) : List Bool :=
  List.replicate (Nat.log2 (v + 1)) false ++ msbBits (Nat.log2 (v + 1) + 1) (v + 1)

/-- `SeFromCode` (40_bitstream.md R222). -/
def seFromCode (k : Nat) : Int := if k % 2 = 1 then ((k : Int) + 1) / 2 else -((k : Int) / 2)

/-- `SeToCode` (40_bitstream.md R222). -/
def seToCode (v : Int) : Nat := if 0 < v then (2 * v - 1).toNat else (-2 * v).toNat

/-- `CBP_INTRA` (40_bitstream.md R233). -/
def cbpIntra : List Nat :=
  [47, 31, 15, 0, 23, 27, 29, 30, 7, 11, 13, 14, 39, 43, 45, 46] ++
  [16, 3, 5, 10, 12, 19, 21, 26, 28, 35, 37, 42, 44, 1, 2, 4] ++
  [8, 17, 18, 20, 24, 6, 9, 22, 25, 32, 33, 34, 36, 40, 38, 41]

/-- `CBP_INTER` (40_bitstream.md R233). -/
def cbpInter : List Nat :=
  [0, 16, 1, 2, 4, 8, 32, 3, 5, 10, 12, 15, 47, 7, 11, 13] ++
  [14, 6, 9, 31, 35, 37, 42, 44, 33, 34, 36, 40, 39, 43, 45, 46] ++
  [17, 18, 20, 24, 19, 21, 26, 28, 23, 27, 29, 30, 22, 25, 38, 41]

/-- The table that the `flag` of `BSRDME` and `BSWRME` selects (40_bitstream.md R234, R235). -/
def cbpTable (intra : Bool) : List Nat := if intra then cbpIntra else cbpInter

/-! Reads. -/

/-- A fixed-width read at `BITPOS`: the `n` bits as a number (40_bitstream.md R223, R224). -/
def peekField (s : State) (n : Nat) : Cmd Nat := do
  needBits s (here s) (here s) n
  streamBits s (here s) n

/-- `BSRD n` (40_bitstream.md R223). -/
def execBsrd (n : BitVec 6) (s : State) : Host.Outcome State Fault Refusal :=
  runCommand s do
    legal (widthOk n) s
    let v ← peekField s n.toNat
    pure { s with res := BitVec.ofNat 32 v, bitpos := BitVec.ofNat 32 (here s + n.toNat) }

/-- `BSPEEK n` (40_bitstream.md R224). -/
def execBspeek (n : BitVec 6) (s : State) : Host.Outcome State Fault Refusal :=
  runCommand s do
    legal (widthOk n) s
    let v ← peekField s n.toNat
    pure { s with res := BitVec.ofNat 32 v }

/-- `BSRDUE` (40_bitstream.md R225). -/
def execBsrdue (s : State) : Host.Outcome State Fault Refusal :=
  runCommand s do
    let (v, pos) ← readUe s (here s)
    pure { s with res := BitVec.ofNat 32 v, bitpos := BitVec.ofNat 32 pos }

/-- `BSRDSE` (40_bitstream.md R226). -/
def execBsrdse (s : State) : Host.Outcome State Fault Refusal :=
  runCommand s do
    let (k, pos) ← readUe s (here s)
    pure { s with res := BitVec.ofInt 32 (seFromCode k), bitpos := BitVec.ofNat 32 pos }

/-- `BSRDME flag` (40_bitstream.md R234). -/
def execBsrdme (intra : Bool) (s : State) : Host.Outcome State Fault Refusal :=
  runCommand s do
    let (k, pos) ← readUe s (here s)
    require (decide (k ≤ 47)) .invalidFieldValue (here s)
    pure { s with res := BitVec.ofNat 32 ((cbpTable intra).getD k 0), bitpos := BitVec.ofNat 32 pos }

/-- `BSMORE` (40_bitstream.md R232). -/
def execBsmore (s : State) : Host.Outcome State Fault Refusal :=
  runCommand s (pure { s with res := if s.bitpos.toNat + 17 ≤ s.bitlen.toNat then 1 else 0 })

/-! Writes. -/

/-- `BSWR n` (40_bitstream.md R227). -/
def execBswr (n : BitVec 6) (s : State) : Host.Outcome State Fault Refusal :=
  runCommand s do
    legal (widthOk n) s
    writeBits s (msbBits n.toNat s.opr.toNat)

/-- `BSWRUE` (40_bitstream.md R228). -/
def execBswrue (s : State) : Host.Outcome State Fault Refusal :=
  runCommand s do
    require (decide (s.opr.toNat ≠ 2 ^ 32 - 1)) .invalidFieldValue (here s)
    writeBits s (ueCode s.opr.toNat)

/-- `BSWRSE` (40_bitstream.md R229). -/
def execBswrse (s : State) : Host.Outcome State Fault Refusal :=
  runCommand s do
    require (decide (s.opr.toInt ≠ -(2 ^ 31))) .invalidFieldValue (here s)
    writeBits s (ueCode (seToCode s.opr.toInt))

/-- `BSWRME flag` (40_bitstream.md R235). -/
def execBswrme (intra : Bool) (s : State) : Host.Outcome State Fault Refusal :=
  runCommand s do
    require (decide (s.opr.toNat ≤ 47)) .invalidFieldValue (here s)
    writeBits s (ueCode ((cbpTable intra).idxOf s.opr.toNat))

/-- The bits from `pos` to the next byte boundary, 0 .. 7 (40_bitstream.md R230). -/
def toBoundary (pos : Nat) : Nat := (8 - pos % 8) % 8

/-- `BSALIGN flag` (40_bitstream.md R230). -/
def execBsalign (fill : Bool) (s : State) : Host.Outcome State Fault Refusal :=
  runCommand s (
    if fill then pure (putBits s (List.replicate (toBoundary (here s)) false))
    else do
      needBits s (here s) (here s) (toBoundary (here s))
      pure { s with bitpos := BitVec.ofNat 32 (here s + toBoundary (here s)) })

/-- `BSTRAIL` (40_bitstream.md R231). -/
def execBstrail (s : State) : Host.Outcome State Fault Refusal :=
  runCommand s (writeBits s (true :: List.replicate (toBoundary (here s + 1)) false))

end Sys2Proof.Machine
end

