-- ==== Sys2Proof/Machine/VlcTables.lean ====
section
/-! DEFINITION. The VLC tables of 42_cavlc.md, shared by the decoder and the encoder (R319). A codeword is written as
its length and its bits, so that the digits read as in the spec's tables. -/

namespace Sys2Proof.Machine

/-- A codeword of a table, `(L, w)` in 42_cavlc.md R286, and its value. -/
structure VlcEntry (α : Type) where
  len : Nat
  code : Nat
  val : α
  deriving DecidableEq, Repr

/-- Entries whose values count up from `k`. -/
def indexed (k : Nat) : List (Nat × Nat) → List (VlcEntry Nat)
  | [] => []
  | c :: cs => ⟨c.1, c.2, k⟩ :: indexed (k + 1) cs

/-- The row of a coeff_token table for one TotalCoeff: the codewords of TrailingOnes 0, 1, 2, 3. -/
def ctRow (tc : Nat) (codes : List (Nat × Nat)) : List (VlcEntry (Nat × Nat)) :=
  (indexed 0 codes).map (fun e => ⟨e.len, e.code, (tc, e.val)⟩)

/-- `CT_0` (42_cavlc.md R287): coeff_token for `0 <= nC < 2`. -/
def ct0 : List (VlcEntry (Nat × Nat)) :=
  ctRow 0 [(1, 0b1)] ++
  ctRow 1 [(6, 0b000101), (2, 0b01)] ++
  ctRow 2 [(8, 0b00000111), (6, 0b000100), (3, 0b001)] ++
  ctRow 3 [(9, 0b000000111), (8, 0b00000110), (7, 0b0000101), (5, 0b00011)] ++
  ctRow 4 [(10, 0b0000000111), (9, 0b000000110), (8, 0b00000101), (6, 0b000011)] ++
  ctRow 5 [(11, 0b00000000111), (10, 0b0000000110), (9, 0b000000101), (7, 0b0000100)] ++
  ctRow 6 [(13, 0b0000000001111), (11, 0b00000000110), (10, 0b0000000101), (8, 0b00000100)] ++
  ctRow 7 [(13, 0b0000000001011), (13, 0b0000000001110), (11, 0b00000000101), (9, 0b000000100)] ++
  ctRow 8 [(13, 0b0000000001000), (13, 0b0000000001010), (13, 0b0000000001101), (10, 0b0000000100)] ++
  ctRow 9 [(14, 0b00000000001111), (14, 0b00000000001110), (13, 0b0000000001001), (11, 0b00000000100)] ++
  ctRow 10 [(14, 0b00000000001011), (14, 0b00000000001010), (14, 0b00000000001101), (13, 0b0000000001100)] ++
  ctRow 11 [(15, 0b000000000001111), (15, 0b000000000001110), (14, 0b00000000001001), (14, 0b00000000001100)] ++
  ctRow 12 [(15, 0b000000000001011), (15, 0b000000000001010), (15, 0b000000000001101), (14, 0b00000000001000)] ++
  ctRow 13 [(16, 0b0000000000001111), (15, 0b000000000000001), (15, 0b000000000001001), (15, 0b000000000001100)] ++
  ctRow 14 [(16, 0b0000000000001011), (16, 0b0000000000001110), (16, 0b0000000000001101), (15, 0b000000000001000)] ++
  ctRow 15 [(16, 0b0000000000000111), (16, 0b0000000000001010), (16, 0b0000000000001001), (16, 0b0000000000001100)] ++
  ctRow 16 [(16, 0b0000000000000100), (16, 0b0000000000000110), (16, 0b0000000000000101), (16, 0b0000000000001000)]

/-- `CT_1` (42_cavlc.md R288): coeff_token for `2 <= nC < 4`. -/
def ct1 : List (VlcEntry (Nat × Nat)) :=
  ctRow 0 [(2, 0b11)] ++
  ctRow 1 [(6, 0b001011), (2, 0b10)] ++
  ctRow 2 [(6, 0b000111), (5, 0b00111), (3, 0b011)] ++
  ctRow 3 [(7, 0b0000111), (6, 0b001010), (6, 0b001001), (4, 0b0101)] ++
  ctRow 4 [(8, 0b00000111), (6, 0b000110), (6, 0b000101), (4, 0b0100)] ++
  ctRow 5 [(8, 0b00000100), (7, 0b0000110), (7, 0b0000101), (5, 0b00110)] ++
  ctRow 6 [(9, 0b000000111), (8, 0b00000110), (8, 0b00000101), (6, 0b001000)] ++
  ctRow 7 [(11, 0b00000001111), (9, 0b000000110), (9, 0b000000101), (6, 0b000100)] ++
  ctRow 8 [(11, 0b00000001011), (11, 0b00000001110), (11, 0b00000001101), (7, 0b0000100)] ++
  ctRow 9 [(12, 0b000000001111), (11, 0b00000001010), (11, 0b00000001001), (9, 0b000000100)] ++
  ctRow 10 [(12, 0b000000001011), (12, 0b000000001110), (12, 0b000000001101), (11, 0b00000001100)] ++
  ctRow 11 [(12, 0b000000001000), (12, 0b000000001010), (12, 0b000000001001), (11, 0b00000001000)] ++
  ctRow 12 [(13, 0b0000000001111), (13, 0b0000000001110), (13, 0b0000000001101), (12, 0b000000001100)] ++
  ctRow 13 [(13, 0b0000000001011), (13, 0b0000000001010), (13, 0b0000000001001), (13, 0b0000000001100)] ++
  ctRow 14 [(13, 0b0000000000111), (14, 0b00000000001011), (13, 0b0000000000110), (13, 0b0000000001000)] ++
  ctRow 15 [(14, 0b00000000001001), (14, 0b00000000001000), (14, 0b00000000001010), (13, 0b0000000000001)] ++
  ctRow 16 [(14, 0b00000000000111), (14, 0b00000000000110), (14, 0b00000000000101), (14, 0b00000000000100)]

/-- `CT_2` (42_cavlc.md R289): coeff_token for `4 <= nC < 8`. -/
def ct2 : List (VlcEntry (Nat × Nat)) :=
  ctRow 0 [(4, 0b1111)] ++
  ctRow 1 [(6, 0b001111), (4, 0b1110)] ++
  ctRow 2 [(6, 0b001011), (5, 0b01111), (4, 0b1101)] ++
  ctRow 3 [(6, 0b001000), (5, 0b01100), (5, 0b01110), (4, 0b1100)] ++
  ctRow 4 [(7, 0b0001111), (5, 0b01010), (5, 0b01011), (4, 0b1011)] ++
  ctRow 5 [(7, 0b0001011), (5, 0b01000), (5, 0b01001), (4, 0b1010)] ++
  ctRow 6 [(7, 0b0001001), (6, 0b001110), (6, 0b001101), (4, 0b1001)] ++
  ctRow 7 [(7, 0b0001000), (6, 0b001010), (6, 0b001001), (4, 0b1000)] ++
  ctRow 8 [(8, 0b00001111), (7, 0b0001110), (7, 0b0001101), (5, 0b01101)] ++
  ctRow 9 [(8, 0b00001011), (8, 0b00001110), (7, 0b0001010), (6, 0b001100)] ++
  ctRow 10 [(9, 0b000001111), (8, 0b00001010), (8, 0b00001101), (7, 0b0001100)] ++
  ctRow 11 [(9, 0b000001011), (9, 0b000001110), (8, 0b00001001), (8, 0b00001100)] ++
  ctRow 12 [(9, 0b000001000), (9, 0b000001010), (9, 0b000001101), (8, 0b00001000)] ++
  ctRow 13 [(10, 0b0000001101), (9, 0b000000111), (9, 0b000001001), (9, 0b000001100)] ++
  ctRow 14 [(10, 0b0000001001), (10, 0b0000001100), (10, 0b0000001011), (10, 0b0000001010)] ++
  ctRow 15 [(10, 0b0000000101), (10, 0b0000001000), (10, 0b0000000111), (10, 0b0000000110)] ++
  ctRow 16 [(10, 0b0000000001), (10, 0b0000000100), (10, 0b0000000011), (10, 0b0000000010)]

/-- `CT_FLC` (42_cavlc.md R290): six bits, `000011` for (0, 0), else `((TC - 1) << 2) | T1`. -/
def ctFlc : List (VlcEntry (Nat × Nat)) :=
  ⟨6, 0b000011, (0, 0)⟩ :: (List.range 16).flatMap (fun k =>
    (List.range (min 3 (k + 1) + 1)).map (fun t1 => ⟨6, 4 * k + t1, (k + 1, t1)⟩))

/-- `CT_CDC` (42_cavlc.md R291): coeff_token for chroma DC, `nC = -1`. -/
def ctCdc : List (VlcEntry (Nat × Nat)) :=
  ctRow 0 [(2, 0b01)] ++
  ctRow 1 [(6, 0b000111), (1, 0b1)] ++
  ctRow 2 [(6, 0b000100), (6, 0b000110), (3, 0b001)] ++
  ctRow 3 [(6, 0b000011), (7, 0b0000011), (7, 0b0000010), (6, 0b000101)] ++
  ctRow 4 [(6, 0b000010), (8, 0b00000011), (8, 0b00000010), (7, 0b0000000)]

/-- total_zeros for maxNumCoeff 15 and 16, by TotalCoeff 1 .. 15 (42_cavlc.md R300, R301). -/
def totalZeros (tc : Nat) : List (VlcEntry Nat) :=
  match tc with
  | 1 => indexed 0 [(1, 0b1), (3, 0b011), (3, 0b010), (4, 0b0011), (4, 0b0010), (5, 0b00011), (5, 0b00010), (6, 0b000011), (6, 0b000010), (7, 0b0000011), (7, 0b0000010), (8, 0b00000011), (8, 0b00000010), (9, 0b000000011), (9, 0b000000010), (9, 0b000000001)]
  | 2 => indexed 0 [(3, 0b111), (3, 0b110), (3, 0b101), (3, 0b100), (3, 0b011), (4, 0b0101), (4, 0b0100), (4, 0b0011), (4, 0b0010), (5, 0b00011), (5, 0b00010), (6, 0b000011), (6, 0b000010), (6, 0b000001), (6, 0b000000)]
  | 3 => indexed 0 [(4, 0b0101), (3, 0b111), (3, 0b110), (3, 0b101), (4, 0b0100), (4, 0b0011), (3, 0b100), (3, 0b011), (4, 0b0010), (5, 0b00011), (5, 0b00010), (6, 0b000001), (5, 0b00001), (6, 0b000000)]
  | 4 => indexed 0 [(5, 0b00011), (3, 0b111), (4, 0b0101), (4, 0b0100), (3, 0b110), (3, 0b101), (3, 0b100), (4, 0b0011), (3, 0b011), (4, 0b0010), (5, 0b00010), (5, 0b00001), (5, 0b00000)]
  | 5 => indexed 0 [(4, 0b0101), (4, 0b0100), (4, 0b0011), (3, 0b111), (3, 0b110), (3, 0b101), (3, 0b100), (3, 0b011), (4, 0b0010), (5, 0b00001), (4, 0b0001), (5, 0b00000)]
  | 6 => indexed 0 [(6, 0b000001), (5, 0b00001), (3, 0b111), (3, 0b110), (3, 0b101), (3, 0b100), (3, 0b011), (3, 0b010), (4, 0b0001), (3, 0b001), (6, 0b000000)]
  | 7 => indexed 0 [(6, 0b000001), (5, 0b00001), (3, 0b101), (3, 0b100), (3, 0b011), (2, 0b11), (3, 0b010), (4, 0b0001), (3, 0b001), (6, 0b000000)]
  | 8 => indexed 0 [(6, 0b000001), (4, 0b0001), (5, 0b00001), (3, 0b011), (2, 0b11), (2, 0b10), (3, 0b010), (3, 0b001), (6, 0b000000)]
  | 9 => indexed 0 [(6, 0b000001), (6, 0b000000), (4, 0b0001), (2, 0b11), (2, 0b10), (3, 0b001), (2, 0b01), (5, 0b00001)]
  | 10 => indexed 0 [(5, 0b00001), (5, 0b00000), (3, 0b001), (2, 0b11), (2, 0b10), (2, 0b01), (4, 0b0001)]
  | 11 => indexed 0 [(4, 0b0000), (4, 0b0001), (3, 0b001), (3, 0b010), (1, 0b1), (3, 0b011)]
  | 12 => indexed 0 [(4, 0b0000), (4, 0b0001), (2, 0b01), (1, 0b1), (3, 0b001)]
  | 13 => indexed 0 [(3, 0b000), (3, 0b001), (1, 0b1), (2, 0b01)]
  | 14 => indexed 0 [(2, 0b00), (2, 0b01), (1, 0b1)]
  | 15 => indexed 0 [(1, 0b0), (1, 0b1)]
  | _ => []

/-- total_zeros for chroma DC, by TotalCoeff 1 .. 3 (42_cavlc.md R302). -/
def totalZerosCdc (tc : Nat) : List (VlcEntry Nat) :=
  match tc with
  | 1 => indexed 0 [(1, 0b1), (2, 0b01), (3, 0b001), (3, 0b000)]
  | 2 => indexed 0 [(1, 0b1), (2, 0b01), (2, 0b00)]
  | 3 => indexed 0 [(1, 0b1), (1, 0b0)]
  | _ => []

/-- run_before, by `min(zerosLeft, 7)` in 1 .. 7 (42_cavlc.md R305). -/
def runBefore (zl : Nat) : List (VlcEntry Nat) :=
  match zl with
  | 1 => indexed 0 [(1, 0b1), (1, 0b0)]
  | 2 => indexed 0 [(1, 0b1), (2, 0b01), (2, 0b00)]
  | 3 => indexed 0 [(2, 0b11), (2, 0b10), (2, 0b01), (2, 0b00)]
  | 4 => indexed 0 [(2, 0b11), (2, 0b10), (2, 0b01), (3, 0b001), (3, 0b000)]
  | 5 => indexed 0 [(2, 0b11), (2, 0b10), (3, 0b011), (3, 0b010), (3, 0b001), (3, 0b000)]
  | 6 => indexed 0 [(2, 0b11), (3, 0b000), (3, 0b001), (3, 0b011), (3, 0b010), (3, 0b101), (3, 0b100)]
  | 7 => indexed 0 [(3, 0b111), (3, 0b110), (3, 0b101), (3, 0b100), (3, 0b011), (3, 0b010), (3, 0b001), (4, 0b0001), (5, 0b00001), (6, 0b000001), (7, 0b0000001), (8, 0b00000001), (9, 0b000000001), (10, 0b0000000001), (11, 0b00000000001)]
  | _ => []

/-- `CtTable(nC)` (42_cavlc.md R285). -/
def ctTable (nC : Int) : List (VlcEntry (Nat × Nat)) :=
  if nC < 0 then ctCdc
  else if nC < 2 then ct0
  else if nC < 4 then ct1
  else if nC < 8 then ct2
  else ctFlc

/-- `maxlen(T)`, the longest codeword of a table. -/
def maxLen {α : Type} (t : List (VlcEntry α)) : Nat := t.foldr (fun e n => max e.len n) 0

end Sys2Proof.Machine
end

