-- ==== Sys2Proof/Machine/Zigzag.lean ====
section
/-! DEFINITION. The zig-zag reorder engine of 41_zigzag.md: the scan orders, ZZFWD and ZZINV. -/

namespace Sys2Proof.Machine

/-- The 4×4 zig-zag scan as raster indices `4*row + col` (41_zigzag.md R260). -/
def zigzag : List Nat := [0, 1, 4, 8, 5, 2, 3, 6, 9, 12, 13, 10, 7, 11, 14, 15]

/-- The 2×2 scan of chroma DC as raster indices of the slot (41_zigzag.md R261). -/
def zigzag2 : List Nat := [0, 1, 4, 5]

/-- The scan that the `2x2` flag of a command selects. -/
def scanOf (twoByTwo : Bool) : List Nat := if twoByTwo then zigzag2 else zigzag

/-- `ScanPos(mnc)` as raster indices (41_zigzag.md R264). -/
def scanPos : Mnc → List Nat
  | .m16 => zigzag
  | .m15 => zigzag.tail
  | .m4 => zigzag2

/-- The block whose element at the `k`-th position of `scan` is the `k`-th value, and 0 elsewhere
(41_zigzag.md R263, 42_cavlc.md R307). -/
def unscan (scan : List Nat) (values : List Int) : Block :=
  (List.range 16).map (fun j => if j ∈ scan then values.getD (scan.idxOf j) 0 else 0)

/-- `ZZFWD d, s[, 2x2]` (41_zigzag.md R262). -/
def execZzfwd (d src : Slot) (flag : Bool) (s : State) : Host.Outcome State Fault Refusal :=
  runCommand s do
    let scanned ← readEach (readElem s src) (scanOf flag)
    pure (writeSlot s d scanned)

/-- `ZZINV d, s[, 2x2]` (41_zigzag.md R263). -/
def execZzinv (d src : Slot) (flag : Bool) (s : State) : Host.Outcome State Fault Refusal :=
  runCommand s do
    let q ← readEach (readElem s src) (List.range (scanOf flag).length)
    pure (writeSlot s d (unscan (scanOf flag) q))

end Sys2Proof.Machine
end

