-- ==== Sys2Proof/Machine/Cavlc.lean ====
section
/-! DEFINITION. The CAVLC coder and decoder and the nC context grid of 42_cavlc.md: CAVLCDEC, CAVLCENC, NCSET, NCGET. -/

namespace Sys2Proof.Machine

/-! The nC context (42_cavlc.md R281 .. R284). -/

/-- A read of a grid cell inside the picture: `ContextNotWritten` unless its `valid` bit is 1 (10_state.md R82). -/
def readNc (s : State) (p : Plane) (gx gy : Nat) : Cmd Nat :=
  match cellRead s.ncg (ncKey p gx gy) with
  | some c => if c.valid then pure c.tc else raise .contextNotWritten (here s)
  | none => raise .contextNotWritten (here s)

/-- The left neighbour A of a cell, if it lies inside the picture (42_cavlc.md R282). -/
def neighbourA (s : State) (p : Plane) (gx gy : Nat) : Cmd (Option Nat) :=
  if gx = 0 then pure none else do
    let n ← readNc s p (gx - 1) gy
    pure (some n)

/-- The upper neighbour B of a cell, if it lies inside the picture (42_cavlc.md R282). -/
def neighbourB (s : State) (p : Plane) (gx gy : Nat) : Cmd (Option Nat) :=
  if gy = 0 then pure none else do
    let n ← readNc s p gx (gy - 1)
    pure (some n)

/-- `NcFromNeighbours(nA, nB)` (42_cavlc.md R283). -/
def ncFromNeighbours (rule : NcRule) (nA nB : Option Nat) : Nat :=
  match nA, nB with
  | none, none => 0
  | some a, some b => (a + b + 1) / 2
  | some a, none => match rule with
    | .itu => a
    | .zeroSubst => (a + 1) / 2
  | none, some b => match rule with
    | .itu => b
    | .zeroSubst => (b + 1) / 2

/-- The nC that the grid gives block `(bx, by)` of the current macroblock: A is read before B. -/
def gridNc (s : State) (p : Plane) (bx byy : Nat) : Cmd Nat := do
  let nA ← neighbourA s p (cellX s p bx) (cellY s p byy)
  let nB ← neighbourB s p (cellX s p bx) (cellY s p byy)
  pure (ncFromNeighbours s.params.ncRule nA nB)

/-- `NcFor(cmd)` (42_cavlc.md R284): -1 for chroma DC, `NCREG`, or the grid's. -/
def ncFor (s : State) (plane : Option Plane) (ncsel : Bool) (bx byy : Two) : Cmd Int :=
  match plane with
  | none => pure (-1)
  | some p => if ncsel then pure (s.ncreg.toNat : Int) else do
    let n ← gridNc s p bx.toNat byy.toNat
    pure (n : Int)

/-- The command reads or writes the grid (42_cavlc.md R310, R316). -/
def usesGrid (plane : Option Plane) (ncsel wb : Bool) : Bool := (plane.isSome && !ncsel) || wb

/-- The checks before a CAVLC command's block: the word, then `PICDIM` and `MBPOS` if the grid is used, then nC
(42_cavlc.md R310, R316). -/
def cavlcContext (mnc : Mnc) (plane : Option Plane) (ncsel : Bool) (bx byy : Two) (wb : Bool) (s : State) :
    Cmd Int := do
  legal (cavlcFieldsOk mnc plane ncsel bx byy wb) s
  if usesGrid plane ncsel wb then checkPicture s else pure ()
  ncFor s plane ncsel bx byy

/-! Codewords. -/

/-- The table's value of the codeword `(len, code)`, if it is one. -/
def vlcFind {α : Type} (t : List (VlcEntry α)) (len code : Nat) : Option α :=
  (t.find? (fun e => decide (e.len = len) && decide (e.code = code))).map VlcEntry.val

/-- The scan of `VlcRead` with `room` lengths left: `len` bits, of value `code`, have been read and match nothing. -/
def vlcScan {α : Type} (s : State) (t : List (VlcEntry α)) (start : Nat) : Nat → Nat → Nat → Cmd (α × Nat)
  | 0, _, _ => raise .malformedVlcCode start
  | room + 1, len, code => do
    needBits s start start (len + 1)
    let b ← streamBit s (start + len)
    match vlcFind t (len + 1) (2 * code + b.toNat) with
    | some v => pure (v, start + len + 1)
    | none => vlcScan s t start room (len + 1) (2 * code + b.toNat)

/-- `VlcRead(T, pos)` (42_cavlc.md R286): the value and the position after the codeword. -/
def vlcRead {α : Type} (s : State) (t : List (VlcEntry α)) (pos : Nat) : Cmd (α × Nat) :=
  vlcScan s t pos (maxLen t) 0 0

/-- The codeword of a value, as a bit string. -/
def vlcCode {α : Type} [DecidableEq α] (t : List (VlcEntry α)) (v : α) : Option (List Bool) :=
  (t.find? (fun e => decide (e.val = v))).map (fun e => msbBits e.len e.code)

/-! Levels. -/

/-- suffixLength before the first level (42_cavlc.md R294). -/
def suffixStart (tc t1 : Nat) : Nat := if 10 < tc ∧ t1 < 3 then 1 else 0

/-- `levelSuffixSize` (42_cavlc.md R296). -/
def suffixSize (levelPrefix suffixLength : Nat) : Nat :=
  if levelPrefix = 14 ∧ suffixLength = 0 then 4
  else if levelPrefix = 15 then 12
  else suffixLength

/-- `levelCode` of the level (42_cavlc.md R297); `first` says that it is the first after fewer than three trailing
ones. -/
def levelCodeOf (levelPrefix suffixLength suffix : Nat) (first : Bool) : Nat :=
  min 15 levelPrefix * 2 ^ suffixLength + suffix
    + (if levelPrefix = 15 ∧ suffixLength = 0 then 15 else 0) + (if first then 2 else 0)

/-- The signed level of a `levelCode` (42_cavlc.md R297). -/
def levelOfCode (levelCode : Nat) : Int :=
  if levelCode % 2 = 0 then ((levelCode : Int) + 2) / 2 else (-(levelCode : Int) - 1) / 2

/-- The suffixLength update after a level (42_cavlc.md R298). -/
def suffixNext (suffixLength : Nat) (level : Int) : Nat :=
  let sl := if suffixLength = 0 then 1 else suffixLength
  if level.natAbs > 3 * 2 ^ (sl - 1) ∧ sl < 6 then sl + 1 else sl

/-- One level that is no trailing one, with the position after it (42_cavlc.md R295 .. R297). -/
def readLevel (s : State) (suffixLength : Nat) (first : Bool) (pos : Nat) : Cmd (Int × Nat) := do
  let (levelPrefix, p) ← countZeros s pos 16 pos 0
  needBits s pos p (suffixSize levelPrefix suffixLength)
  let suffix ← streamBits s p (suffixSize levelPrefix suffixLength)
  pure (levelOfCode (levelCodeOf levelPrefix suffixLength suffix first), p + suffixSize levelPrefix suffixLength)

/-- The levels from index `i` on, highest frequency first, `n` of them left (42_cavlc.md R308). -/
def readLevels (s : State) (t1 : Nat) : Nat → Nat → Nat → Nat → Cmd (List Int × Nat)
  | 0, _, _, pos => pure ([], pos)
  | n + 1, i, suffixLength, pos =>
    if i < t1 then do
      needBits s pos pos 1
      let b ← streamBit s pos
      let (ls, p) ← readLevels s t1 n (i + 1) suffixLength (pos + 1)
      pure ((if b then -1 else 1) :: ls, p)
    else do
      let (l, p) ← readLevel s suffixLength (decide (i = t1 ∧ t1 < 3)) pos
      let (ls, q) ← readLevels s t1 n (i + 1) (suffixNext suffixLength l) p
      pure (l :: ls, q)

/-! Zeros and runs. -/

/-- The total_zeros table (42_cavlc.md R299). -/
def tzTable (mnc : Mnc) (tc : Nat) : List (VlcEntry Nat) :=
  match mnc with
  | .m4 => totalZerosCdc tc
  | .m16 => totalZeros tc
  | .m15 => totalZeros tc

/-- total_zeros, read only when `TotalCoeff < maxNumCoeff` (42_cavlc.md R299, R303). -/
def readTotalZeros (s : State) (mnc : Mnc) (tc pos : Nat) : Cmd (Nat × Nat) :=
  if tc < mncLen mnc then do
    let (tz, p) ← vlcRead s (tzTable mnc tc) pos
    require (decide (tz ≤ mncLen mnc - tc)) .invalidFieldValue pos
    pure (tz, p)
  else pure (0, pos)

/-- The runs of the `n` coefficients left, with `zl` zeros left (42_cavlc.md R304): the last takes them all. -/
def readRuns (s : State) : Nat → Nat → Nat → Cmd (List Nat × Nat)
  | 0, _, pos => pure ([], pos)
  | 1, zl, pos => pure ([zl], pos)
  | n + 2, zl, pos =>
    if 0 < zl then do
      let (r, p) ← vlcRead s (runBefore (min zl 7)) pos
      require (decide (r ≤ zl)) .invalidFieldValue pos
      let (rs, q) ← readRuns s (n + 1) (zl - r) p
      pure (r :: rs, q)
    else do
      let (rs, q) ← readRuns s (n + 1) zl pos
      pure (0 :: rs, q)

/-- Reassembly (42_cavlc.md R306): from the lowest frequency up, each coefficient after its run of zeros. -/
def reassemble (levels : List Int) (runs : List Nat) : List Int :=
  (levels.zip runs).reverse.flatMap (fun lr => List.replicate lr.2 0 ++ [lr.1])

/-- A decoded or encoded block: its coefficients in scan order, TotalCoeff, TrailingOnes and the stream position
after it. -/
structure CavlcBlock where
  coeff : List Int
  tc : Nat
  t1 : Nat
  pos : Nat
  deriving DecidableEq, Repr

/-- What follows a coeff_token with `TotalCoeff > 0` (42_cavlc.md R308). -/
def decodeCoeffs (s : State) (mnc : Mnc) (tc t1 pos : Nat) : Cmd CavlcBlock := do
  let (levels, p) ← readLevels s t1 tc 0 (suffixStart tc t1) pos
  let (tz, q) ← readTotalZeros s mnc tc p
  let (runs, r) ← readRuns s tc tz q
  pure { coeff := reassemble levels runs, tc := tc, t1 := t1, pos := r }

/-- `DecodeBlock(pos, nC, mnc)` (42_cavlc.md R308). -/
def decodeBlock (s : State) (pos : Nat) (nC : Int) (mnc : Mnc) : Cmd CavlcBlock := do
  let ((tc, t1), p) ← vlcRead s (ctTable nC) pos
  require (decide (tc ≤ mncLen mnc)) .invalidFieldValue pos
  if tc = 0 then pure { coeff := [], tc := 0, t1 := t1, pos := p }
  else decodeCoeffs s mnc tc t1 p

/-! Encoding. -/

/-- The scan indices of the non-zero coefficients with their levels, from the highest frequency down
(42_cavlc.md R311); `k` is the index of the first coefficient of the list. -/
def nonZeros (k : Nat) : List Int → List (Nat × Int)
  | [] => []
  | c :: cs => nonZeros (k + 1) cs ++ (if c = 0 then [] else [(k, c)])

/-- TrailingOnes: the leading levels of magnitude 1, at most `room` (42_cavlc.md R311). -/
def trailingOnes : Nat → List Int → Nat
  | 0, _ => 0
  | _ + 1, [] => 0
  | room + 1, l :: ls => if l.natAbs = 1 then trailingOnes room ls + 1 else 0

/-- The encoder's `levelCode` (42_cavlc.md R313). -/
def codeOfLevel (level : Int) (first : Bool) : Nat :=
  (if 0 < level then (2 * level - 2).toNat else (-2 * level - 1).toNat) - (if first then 2 else 0)

/-- `level_prefix` zeros, a 1, and a suffix of `n` bits. -/
def levelBits (levelPrefix n suffix : Nat) : List Bool :=
  List.replicate levelPrefix false ++ true :: msbBits n suffix

/-- The codeword of a `levelCode`, or none if no codeword carries it (42_cavlc.md R313). -/
def levelCodeword (suffixLength levelCode : Nat) : Option (List Bool) :=
  if suffixLength = 0 then
    if levelCode < 14 then some (levelBits levelCode 0 0)
    else if levelCode < 30 then some (levelBits 14 4 (levelCode - 14))
    else if levelCode < 30 + 4096 then some (levelBits 15 12 (levelCode - 30))
    else none
  else
    if levelCode < 15 * 2 ^ suffixLength then
      some (levelBits (levelCode / 2 ^ suffixLength) suffixLength (levelCode % 2 ^ suffixLength))
    else if levelCode < 15 * 2 ^ suffixLength + 4096 then
      some (levelBits 15 12 (levelCode - 15 * 2 ^ suffixLength))
    else none

/-- The bits of the levels from index `i` on (42_cavlc.md R312, R313). -/
def encodeLevels (t1 : Nat) : Nat → Nat → List Int → Option (List Bool)
  | _, _, [] => some []
  | i, suffixLength, l :: ls =>
    if i < t1 then do
      let rest ← encodeLevels t1 (i + 1) suffixLength ls
      pure (decide (l < 0) :: rest)
    else do
      let code ← levelCodeword suffixLength (codeOfLevel l (decide (i = t1 ∧ t1 < 3)))
      let rest ← encodeLevels t1 (i + 1) (suffixNext suffixLength l) ls
      pure (code ++ rest)

/-- The run_before codewords, from the scan indices and the zeros left (42_cavlc.md R314). -/
def encodeRuns : Nat → List Nat → Option (List Bool)
  | zl, p :: p' :: ps =>
    if zl = 0 then some [] else do
      let code ← vlcCode (runBefore (min zl 7)) (p - p' - 1)
      let rest ← encodeRuns (zl - (p - p' - 1)) (p' :: ps)
      pure (code ++ rest)
  | _, _ => some []

/-- The bits after coeff_token and the levels: total_zeros and the runs (42_cavlc.md R314). -/
def encodeZeros (mnc : Mnc) (positions : List Nat) : Option (List Bool) :=
  match positions with
  | [] => some []
  | p :: ps => do
    let tz := p + 1 - (ps.length + 1)
    let code ← if ps.length + 1 < mncLen mnc then vlcCode (tzTable mnc (ps.length + 1)) tz else some []
    let rest ← encodeRuns tz (p :: ps)
    pure (code ++ rest)

/-- `EncodeBlock` on the coefficients in scan order (42_cavlc.md R315): the bit string, TotalCoeff and TrailingOnes;
none if a level has no codeword. -/
def encodeBlock (coeff : List Int) (nC : Int) (mnc : Mnc) : Option (List Bool × Nat × Nat) := do
  let nz := nonZeros 0 coeff
  let t1 := trailingOnes 3 (nz.map Prod.snd)
  let token ← vlcCode (ctTable nC) (nz.length, t1)
  let levels ← encodeLevels t1 0 (suffixStart nz.length t1) (nz.map Prod.snd)
  let zeros ← encodeZeros mnc (nz.map Prod.fst)
  pure (token ++ levels ++ zeros, nz.length, t1)

/-! Results and commands. -/

/-- `CVSTAT` (10_state.md R68). -/
def cvstatOf (n t1 tc : Nat) : Word := BitVec.ofNat 32 (n * 2 ^ 16 + t1 * 2 ^ 8 + tc)

/-- `NCG[plane][gy][gx] <- (1, tc)` for block `(bx, by)` of the current macroblock. -/
def putNc (s : State) (p : Plane) (tc bx byy : Nat) : State :=
  { s with ncg := cellWrite (ncKey p (cellX s p bx) (cellY s p byy)) { valid := true, tc := tc } s.ncg }

/-- The write-back of TotalCoeff (42_cavlc.md R309). -/
def writeBack (s : State) (plane : Option Plane) (wb : Bool) (tc : Nat) (bx byy : Two) : State :=
  match plane with
  | some p => if wb then putNc s p tc bx.toNat byy.toNat else s
  | none => s

/-- The results of a CAVLC command that completes, but for the stream (42_cavlc.md R309). -/
def cavlcResults (s : State) (plane : Option Plane) (wb : Bool) (bx byy : Two) (n tc t1 : Nat) : State :=
  writeBack { s with res := BitVec.ofNat 32 tc, cvstat := cvstatOf n t1 tc } plane wb tc bx byy

/-- `CAVLCDEC` (42_cavlc.md R310). -/
def execCavlcdec (slot : Slot) (mnc : Mnc) (plane : Option Plane) (ncsel : Bool) (bx byy : Two) (wb : Bool)
    (s : State) : Host.Outcome State Fault Refusal :=
  runCommand s do
    let nC ← cavlcContext mnc plane ncsel bx byy wb s
    let blk ← decodeBlock s (here s) nC mnc
    let t := { writeSlot s slot (unscan (scanPos mnc) blk.coeff) with bitpos := BitVec.ofNat 32 blk.pos }
    pure (cavlcResults t plane wb bx byy (blk.pos - here s) blk.tc blk.t1)

/-- `CAVLCENC` (42_cavlc.md R316). -/
def execCavlcenc (slot : Slot) (mnc : Mnc) (plane : Option Plane) (ncsel : Bool) (bx byy : Two) (wb : Bool)
    (s : State) : Host.Outcome State Fault Refusal :=
  runCommand s do
    let nC ← cavlcContext mnc plane ncsel bx byy wb s
    let coeff ← readEach (readElem s slot) (scanPos mnc)
    match encodeBlock coeff nC mnc with
    | none => raise .invalidFieldValue (here s)
    | some (code, tc, t1) => do
      let t ← writeBits s code
      pure (cavlcResults t plane wb bx byy code.length tc t1)

/-- The cells of the current macroblock in a plane, all set to `(1, tc)` (42_cavlc.md R320). -/
def putNcAll (s : State) (p : Plane) (tc : Nat) : State :=
  (List.range (planeBlocks p * planeBlocks p)).foldl
    (fun t k => putNc t p tc (k % planeBlocks p) (k / planeBlocks p)) s

/-- `NCSET` (42_cavlc.md R320). -/
def execNcset (plane : Option Plane) (bx byy : Two) (all : Bool) (s : State) : Host.Outcome State Fault Refusal :=
  runCommand s do
    legal (ncsetFieldsOk plane bx byy all) s
    checkPicture s
    require (decide (s.ncreg.toNat ≤ 16)) .invalidFieldValue (here s)
    match plane with
    | none => pure (putNcAll (putNcAll (putNcAll s .y s.ncreg.toNat) .cb s.ncreg.toNat) .cr s.ncreg.toNat)
    | some p =>
      if all then pure (putNcAll s p s.ncreg.toNat)
      else pure (putNc s p s.ncreg.toNat bx.toNat byy.toNat)

/-- `NCGET` (42_cavlc.md R321). -/
def execNcget (plane : Option Plane) (bx byy : Two) (raw : Bool) (s : State) : Host.Outcome State Fault Refusal :=
  runCommand s do
    legal (ncgetFieldsOk plane bx byy) s
    checkPicture s
    match plane with
    | none => raise .illegalCommand (here s)
    | some p => do
      let n ← if raw then readNc s p (cellX s p bx.toNat) (cellY s p byy.toNat) else gridNc s p bx.toNat byy.toNat
      pure { s with res := BitVec.ofNat 32 n }

end Sys2Proof.Machine
end

