-- ==== Sys2Proof/Machine/Control.lean ====
section
/-! DEFINITION. The control and move commands of 45_control.md: NOP, SETR, SETRH, GRIDCLR, QPDELTA, EMOV, ZERO. -/

namespace Sys2Proof.Machine

/-- `NOP` (45_control.md R510). -/
def execNop (s : State) : Host.Outcome State Fault Refusal := runCommand s (pure s)

/-- `SETR` (45_control.md R511). -/
def execSetr (rsel : BitVec 6) (imm16 : BitVec 16) (s : State) : Host.Outcome State Fault Refusal :=
  runCommand s do
    legal (regWritable rsel) s
    pure (writeReg s rsel.toNat (setrValue imm16))

/-- `SETRH` (45_control.md R512). -/
def execSetrh (rsel : BitVec 6) (imm16 : BitVec 16) (s : State) : Host.Outcome State Fault Refusal :=
  runCommand s do
    legal (regWritable rsel) s
    pure (writeReg s rsel.toNat (setrhValue imm16 (readReg s rsel.toNat)))

/-- `GRIDCLR` (45_control.md R513). -/
def execGridclr (s : State) : Host.Outcome State Fault Refusal :=
  runCommand s (pure { s with ncg := invalidateNc s.ncg, mvg := invalidateMv s.mvg })

/-- The QP derivation `(SliceQPy + mb_qp_delta + 52) mod 52`, with the floor modulus (45_control.md R514). -/
def qpFromDelta (sliceqp : Nat) (delta : Int) : Int := ((sliceqp : Int) + delta + 52) % 52

/-- `QPDELTA` (45_control.md R514). -/
def execQpdelta (s : State) : Host.Outcome State Fault Refusal :=
  runCommand s do
    require (decide (s.sliceqp.toNat ≤ 51)) .invalidFieldValue (here s)
    pure { s with qp := BitVec.ofInt 6 (qpFromDelta s.sliceqp.toNat s.opr.toInt) }

/-- `EMOV` (45_control.md R515). -/
def execEmov (d src : Slot) (dr dc sr sc : Two) (s : State) : Host.Outcome State Fault Refusal :=
  runCommand s do
    let v ← written (cellRead s.cb (cbKey src (4 * sr.toNat + sc.toNat)))
    pure { s with cb := cellWrite (cbKey d (4 * dr.toNat + dc.toNat)) v s.cb }

/-- `ZERO` (45_control.md R516). -/
def execZero (d : Slot) (s : State) : Host.Outcome State Fault Refusal :=
  runCommand s (pure (writeSlot s d (mkBlock fun _ _ => 0)))

end Sys2Proof.Machine
end

