-- ==== Sys2Proof/Machine/Motion.lean ====
section
/-! DEFINITION. Motion-vector prediction and the motion-compensated copy of 44_prediction.md: MVPRED, MVSET, MCOPY. -/

namespace Sys2Proof.Machine

/-- A motion vector `(mvx, mvy)`. -/
abbrev MotionVector := Int × Int

/-- A read of a grid cell inside the picture: `ContextNotWritten` unless its `valid` bit is 1 (44_prediction.md R460). -/
def readMv (s : State) (mx my : Nat) : Cmd MotionVector :=
  match cellRead s.mvg (mvKey mx my) with
  | some c => if c.valid then pure (c.mvx.toInt, c.mvy.toInt) else raise .contextNotWritten (here s)
  | none => raise .contextNotWritten (here s)

/-- A neighbour's vector, if it lies inside the picture. -/
def mvNeighbour (s : State) (avail : Bool) (mx my : Nat) : Cmd (Option MotionVector) :=
  if avail then do
    let v ← readMv s mx my
    pure (some v)
  else pure none

/-- `median3` (00_scope.md R9). -/
def median3 (a b c : Int) : Int := a + b + c - min a (min b c) - max a (max b c)

/-- The predictor (44_prediction.md R461, R462): each missing vector takes the first available one, then the
component-wise median; `(0, 0)` when none is available. -/
def mvPredictor (a b c : Option MotionVector) : MotionVector :=
  match (a <|> b <|> c) with
  | none => (0, 0)
  | some first =>
    (median3 (a.getD first).1 (b.getD first).1 (c.getD first).1,
     median3 (a.getD first).2 (b.getD first).2 (c.getD first).2)

/-- `{mvy[15:0], mvx[15:0]}` (44_prediction.md R463). -/
def packMv (v : MotionVector) : Word :=
  BitVec.ofNat 32 ((BitVec.ofInt 16 v.2).toNat * 2 ^ 16 + (BitVec.ofInt 16 v.1).toNat)

/-- The neighbours A, B and C, read in that order (44_prediction.md R460), and their predictor. -/
def predictMv (s : State) : Cmd MotionVector := do
  let a ← mvNeighbour s (decide (0 < mbx s)) (mbx s - 1) (mby s)
  let b ← mvNeighbour s (decide (0 < mby s)) (mbx s) (mby s - 1)
  let c ← mvNeighbour s (decide (0 < mby s) && decide (mbx s + 1 < wmbs s)) (mbx s + 1) (mby s - 1)
  pure (mvPredictor a b c)

/-- `MVPRED` (44_prediction.md R463). -/
def execMvpred (s : State) : Host.Outcome State Fault Refusal :=
  runCommand s do
    checkPicture s
    let v ← predictMv s
    pure { s with res := packMv v }

/-- The grid cell of a packed vector: `(valid = 1, mvx = v[15:0], mvy = v[31:16])` (44_prediction.md R464). -/
def mvCellOf (v : Word) : MvCell := { valid := true, mvx := v.extractLsb' 0 16, mvy := v.extractLsb' 16 16 }

/-- `MVSET opr|res` (44_prediction.md R464). -/
def execMvset (res : Bool) (s : State) : Host.Outcome State Fault Refusal :=
  runCommand s do
    checkPicture s
    pure { s with mvg := cellWrite (mvKey (mbx s) (mby s)) (mvCellOf (if res then s.res else s.opr)) s.mvg }

/-- `mv >> MV_SHIFT` (44_prediction.md R465, R466). -/
def mvOffset (shift : MvShift) (v : Int) : Int :=
  match shift with
  | .whole => v
  | .quarter => v / 4

/-- The key of the reference sample for sample `(y, x)` of the macroblock, each coordinate clamped to the picture
(44_prediction.md R465). -/
def refKey (s : State) (v : MotionVector) (y x : Nat) : Nat :=
  frameKey
    (clip3 0 ((planeH s : Int) - 1) ((originY s : Int) + y + mvOffset s.params.mvShift v.2)).toNat
    (clip3 0 ((planeW s : Int) - 1) ((originX s : Int) + x + mvOffset s.params.mvShift v.1)).toNat

/-- `MCOPY` (44_prediction.md R467). -/
def execMcopy (s : State) : Host.Outcome State Fault Refusal :=
  runCommand s do
    checkPicture s
    let v ← readMv s (mbx s) (mby s)
    let p ← readEach (fun k => readSample s.refFrame (refKey s v (k / 16) (k % 16))) (List.range 256)
    pure (writePred s p)

end Sys2Proof.Machine
end

