-- ==== Sys2Proof/Machine/Prediction.lean ====
section
/-! DEFINITION. Intra 16×16 prediction and the reconstruction moves of 44_prediction.md: IPRED, IPSEL, RSUB, RECON, RCOPY. -/

namespace Sys2Proof.Machine

/-! The intra neighbours (44_prediction.md R451). -/

/-- The neighbours of the macroblock; an unavailable one is `none`. -/
structure IntraNeighbours where
  /-- `H[0..15]`, the row above -/
  top : Option (List Int)
  /-- `V[0..15]`, the column to the left -/
  left : Option (List Int)
  /-- `P`, the corner -/
  corner : Option Int
  deriving DecidableEq, Repr

/-- A read that is made only if the neighbour is available. -/
def readIf {α : Type} (avail : Bool) (c : Cmd α) : Cmd (Option α) :=
  if avail then do
    let v ← c
    pure (some v)
  else pure none

/-- `IntraNeighbours()` (44_prediction.md R451): a neighbour is available exactly when it lies inside the picture. -/
def intraNeighbours (s : State) : Cmd IntraNeighbours := do
  let top ← readIf (decide (0 < mby s)) (readEach (fun x => readSample s.recFrame (frameKey (originY s - 1) (originX s + x))) (List.range 16))
  let left ← readIf (decide (0 < mbx s)) (readEach (fun y => readSample s.recFrame (frameKey (originY s + y) (originX s - 1))) (List.range 16))
  let corner ← readIf (decide (0 < mby s) && decide (0 < mbx s)) (readSample s.recFrame (frameKey (originY s - 1) (originX s - 1)))
  pure { top := top, left := left, corner := corner }

/-! The four predictions. -/

/-- The DC value (44_prediction.md R454). -/
def dcValue (n : IntraNeighbours) : Int :=
  match n.top, n.left with
  | some h, some v => (h.sum + v.sum + 16) / 32
  | some h, none => (h.sum + 8) / 16
  | none, some v => (v.sum + 8) / 16
  | none, none => 128

/-- The gradient sum of the plane fit: `sum over i in 0..7 of (i + 1) * (line(8 + i) - line(6 - i))`, where index -1
is the corner (44_prediction.md R454). -/
def planeGradient (corner : Int) (line : List Int) : Int :=
  ((List.range 7).map (fun (i : Nat) => ((i : Int) + 1) * (line.getD (8 + i) 0 - line.getD (6 - i) 0))).sum
    + 8 * (line.getD 15 0 - corner)

/-- The plane prediction (44_prediction.md R454). -/
def planePred (h v : List Int) (corner : Int) : Samples :=
  let a := 16 * (v.getD 15 0 + h.getD 15 0)
  let b := (5 * planeGradient corner h + 32) / 64
  let c := (5 * planeGradient corner v + 32) / 64
  mkSamples fun y x => clip1 ((a + b * ((x : Int) - 7) + c * ((y : Int) - 7) + 16) / 32)

/-- The prediction of a mode, none when it needs an unavailable neighbour (44_prediction.md R452 .. R455). -/
def intraPred (n : IntraNeighbours) (mode : Two) : Option Samples :=
  match mode.toNat with
  | 0 => n.top.map (fun h => mkSamples fun _ x => h.getD x 0)
  | 1 => n.left.map (fun v => mkSamples fun y _ => v.getD y 0)
  | 2 => some (mkSamples fun _ _ => dcValue n)
  | _ =>
    match n.top, n.left, n.corner with
    | some h, some v, some p => some (planePred h v p)
    | _, _, _ => none

/-! Mode selection (44_prediction.md R456). -/

/-- The sum of absolute errors between the source and a prediction. -/
def saeOf (source p : Samples) : Int := ((List.zipWith (fun a b => |a - b|) source p)).sum

/-- A candidate of the selection: mode, sum of absolute errors, prediction. -/
structure ModeChoice where
  mode : Two
  sae : Int
  samples : Samples
  deriving DecidableEq, Repr

/-- One step of the selection: an unavailable mode is skipped, ties keep the lower mode. -/
def betterChoice (n : IntraNeighbours) (source : Samples) (best : Option ModeChoice) (mode : Two) :
    Option ModeChoice :=
  match intraPred n mode, best with
  | none, b => b
  | some p, none => some ⟨mode, saeOf source p, p⟩
  | some p, some b => if saeOf source p < b.sae then some ⟨mode, saeOf source p, p⟩ else some b

/-- The chosen mode, in the order 0, 1, 2, 3. -/
def selectMode (n : IntraNeighbours) (source : Samples) : Option ModeChoice :=
  [0, 1, 2, 3].foldl (betterChoice n source) none

/-! Commands. -/

/-- `IPRED <mode>` (44_prediction.md R455). -/
def execIpred (mode : Two) (s : State) : Host.Outcome State Fault Refusal :=
  runCommand s do
    checkPicture s
    let n ← intraNeighbours s
    match intraPred n mode with
    | none => raise .invalidFieldValue (here s)
    | some p => pure (writePred s p)

/-- `IPSEL` (44_prediction.md R456). Mode 2 is always available, so a mode is always chosen (log 15). -/
def execIpsel (s : State) : Host.Outcome State Fault Refusal :=
  runCommand s do
    checkPicture s
    let n ← intraNeighbours s
    let source ← readSamples s.src
    match selectMode n source with
    | none => raise .invalidFieldValue (here s)
    | some best =>
      pure { (writePred s best.samples) with res := best.mode.setWidth 32, sae := BitVec.ofInt 17 best.sae }

/-- The 4×4 block `(bx, by)` of a 16×16 buffer: sample `(r, c)` of the block (30_encoding.md R169). -/
def blockSample (m : Cells Byte) (bx byy : Two) (k : Nat) : Cmd Int :=
  readSample m (bufKey (4 * byy.toNat + k / 4) (4 * bx.toNat + k % 4))

/-- `RSUB s<slot>, <bx>, <by>` (44_prediction.md R457). -/
def execRsub (slot : Slot) (bx byy : Two) (s : State) : Host.Outcome State Fault Refusal :=
  runCommand s do
    let a ← readEach (blockSample s.src bx byy) (List.range 16)
    let p ← readEach (blockSample s.pred bx byy) (List.range 16)
    pure (writeSlot s slot (List.zipWith (fun x y => x - y) a p))

/-- The entry of `REC` for sample `(y, x)` of the current macroblock. -/
def recEntry (s : State) (y x : Nat) (v : Int) : Nat × Byte :=
  (frameKey (originY s + y) (originX s + x), toByte v)

/-- Write entries of `REC`. -/
def writeRec (s : State) (entries : List (Nat × Byte)) : State :=
  { s with recFrame := cellWriteAll s.recFrame entries }

/-- `RECON s<slot>, <bx>, <by>` (44_prediction.md R458). -/
def execRecon (slot : Slot) (bx byy : Two) (s : State) : Host.Outcome State Fault Refusal :=
  runCommand s do
    checkPicture s
    let p ← readEach (blockSample s.pred bx byy) (List.range 16)
    let residual ← readSlot s slot
    pure (writeRec s ((List.range 16).map (fun k =>
      recEntry s (4 * byy.toNat + k / 4) (4 * bx.toNat + k % 4) (clip1 (p.getD k 0 + residual.getD k 0)))))

/-- `RCOPY` (44_prediction.md R459). -/
def execRcopy (s : State) : Host.Outcome State Fault Refusal :=
  runCommand s do
    checkPicture s
    let p ← readSamples s.pred
    pure (writeRec s ((List.range 256).map (fun k => recEntry s (k / 16) (k % 16) (p.getD k 0))))

end Sys2Proof.Machine
end

