-- ==== Sys2Proof/Machine/Transform.lean ====
section
/-! DEFINITION. The transform and quantization commands of 43_transform.md: FCORE, FQUANT, FHADQ, IQUANT, IDCT, IHADQ,
PRES. Every intermediate value is an exact integer (R380). -/

namespace Sys2Proof.Machine

/-! Matrices. -/

/-- `A·B` for 4×4 matrices (00_scope.md R10). -/
def matMul (a b : Block) : Block :=
  mkBlock fun r c => a.at r 0 * b.at 0 c + a.at r 1 * b.at 1 c + a.at r 2 * b.at 2 c + a.at r 3 * b.at 3 c

/-- The transpose. -/
def matTranspose (a : Block) : Block := mkBlock fun r c => a.at c r

/-- `Cf` (43_transform.md R382). -/
def coreMatrix : Block :=
  [1, 1, 1, 1,
   2, 1, -1, -2,
   1, -1, -1, 1,
   1, -2, 2, -1]

/-- `H` (43_transform.md R386). -/
def hadamardMatrix : Block :=
  [1, 1, 1, 1,
   1, 1, -1, -1,
   1, -1, -1, 1,
   1, -1, 1, -1]

/-- `Cf · X · Cfᵗ` (43_transform.md R382). -/
def forwardCore (x : Block) : Block := matMul (matMul coreMatrix x) (matTranspose coreMatrix)

/-- `H · X · H` (43_transform.md R387, R393). -/
def hadamard (x : Block) : Block := matMul (matMul hadamardMatrix x) hadamardMatrix

/-! Tables. -/

/-- The position class (43_transform.md R381): 0 = `a`, 1 = `b`, 2 = `c`. -/
def posClass (r c : Nat) : Nat :=
  if r % 2 = 0 ∧ c % 2 = 0 then 0
  else if r % 2 = 1 ∧ c % 2 = 1 then 1
  else 2

/-- `MF[QP%6][cls]` (43_transform.md R383). -/
def forwardScale (qpMod cls : Nat) : Int :=
  ([[13107, 5243, 8066],
    [11916, 4660, 7490],
    [10082, 4194, 6554],
    [9362, 3647, 5825],
    [8192, 3355, 5243],
    [7282, 2893, 4559]].getD qpMod []).getD cls 0

/-- `V[QP%6][cls]`, `LevelScale` (43_transform.md R388). -/
def inverseScale (qpMod cls : Nat) : Int :=
  ([[10, 16, 13],
    [11, 18, 14],
    [13, 20, 16],
    [14, 23, 18],
    [16, 25, 20],
    [18, 29, 23]].getD qpMod []).getD cls 0

/-! Rounding. -/

/-- `RoundShift(x, k)`, PYC's `round(x / 2^k)` (43_transform.md R384). -/
def roundShift (rule : FwdRound) (x : Int) (k : Nat) : Int :=
  match rule with
  | .halfAway => if 0 ≤ x then (x + 2 ^ (k - 1)) / 2 ^ k else -((-x + 2 ^ (k - 1)) / 2 ^ k)
  | .halfEven =>
    if 2 * (x % 2 ^ k) < 2 ^ k then x / 2 ^ k
    else if 2 * (x % 2 ^ k) > 2 ^ k then x / 2 ^ k + 1
    else if x / 2 ^ k % 2 = 0 then x / 2 ^ k
    else x / 2 ^ k + 1

/-- `QP/6` and `QP%6` (43_transform.md R380). -/
def qpDiv (s : State) : Nat := s.qp.toNat / 6

def qpMod (s : State) : Nat := s.qp.toNat % 6

/-! The value computations. -/

/-- Forward quantization of a block; `ac` forces element (0, 0) to 0 (43_transform.md R385). -/
def quantBlock (rule : FwdRound) (qp : Nat) (ac : Bool) (w : Block) : Block :=
  mkBlock fun r c =>
    if ac ∧ r = 0 ∧ c = 0 then 0
    else roundShift rule (w.at r c * forwardScale (qp % 6) (posClass r c)) (15 + qp / 6)

/-- The forward luma-DC transform and quantization (43_transform.md R387). -/
def quantDc (rule : FwdRound) (qp : Nat) (wd : Block) : Block :=
  mkBlock fun r c => roundShift rule ((hadamard wd).at r c * forwardScale (qp % 6) 0) (15 + qp / 6 + 2)

/-- Dequantization; `dc` keeps element (0, 0) (43_transform.md R389). -/
def dequantBlock (qp : Nat) (dc : Bool) (z : Block) : Block :=
  mkBlock fun r c =>
    if dc ∧ r = 0 ∧ c = 0 then z.at 0 0
    else z.at r c * inverseScale (qp % 6) (posClass r c) * 2 ^ (qp / 6)

/-- One butterfly stage of four values: `e0 .. e3` or `g0 .. g3` combined (43_transform.md R390). -/
def butterfly4 (a b c d : Int) (k : Nat) : Int :=
  match k with
  | 0 => (a + c) + (b + d / 2)
  | 1 => (a - c) + (b / 2 - d)
  | 2 => (a - c) - (b / 2 - d)
  | _ => (a + c) - (b + d / 2)

/-- `Butterfly(D)` (43_transform.md R390): the rows, then the columns. -/
def butterfly (d : Block) : Block :=
  let f := mkBlock fun i k => butterfly4 (d.at i 0) (d.at i 1) (d.at i 2) (d.at i 3) k
  mkBlock fun k j => butterfly4 (f.at 0 j) (f.at 1 j) (f.at 2 j) (f.at 3 j) k

/-- `(Butterfly(D) + 2^5) >> 6` (43_transform.md R391). -/
def inverseCore (d : Block) : Block := mkBlock fun r c => ((butterfly d).at r c + 32) / 64

/-- The inverse luma-DC transform and scaling (43_transform.md R393). -/
def dequantDc (qp : Nat) (z : Block) : Block :=
  mkBlock fun r c =>
    if 12 ≤ qp then (hadamard z).at r c * inverseScale (qp % 6) 0 * 2 ^ (qp / 6 - 2)
    else ((hadamard z).at r c * inverseScale (qp % 6) 0 + 2 ^ (1 - qp / 6)) / 2 ^ (2 - qp / 6)

/-- `Cs` of P-residual reconstruction (43_transform.md R392): `f` is the prediction term, `a` is `PRES_A`. -/
def presTerm (a : List Int) (qp : Nat) (coeff f : Block) : Block :=
  mkBlock fun r c =>
    f.at r c + coeff.at r c * inverseScale (qp % 6) (posClass r c) * Block.at a r c * 2 ^ (qp / 6) / 64

/-! Commands. -/

/-- `FCORE d, s` (43_transform.md R382). -/
def execFcore (d src : Slot) (s : State) : Host.Outcome State Fault Refusal :=
  runCommand s do
    let x ← readSlot s src
    storeBlock s d (forwardCore x)

/-- `FQUANT d, s[, ac]` (43_transform.md R385). -/
def execFquant (d src : Slot) (ac : Bool) (s : State) : Host.Outcome State Fault Refusal :=
  runCommand s do
    checkQp s
    let w ← readSlot s src
    storeBlock s d (quantBlock s.params.fwdRound s.qp.toNat ac w)

/-- `FHADQ d, s` (43_transform.md R387). -/
def execFhadq (d src : Slot) (s : State) : Host.Outcome State Fault Refusal :=
  runCommand s do
    checkQp s
    let wd ← readSlot s src
    storeBlock s d (quantDc s.params.fwdRound s.qp.toNat wd)

/-- `IQUANT d, s[, dc]` (43_transform.md R389). -/
def execIquant (d src : Slot) (dc : Bool) (s : State) : Host.Outcome State Fault Refusal :=
  runCommand s do
    checkQp s
    let z ← readSlot s src
    storeBlock s d (dequantBlock s.qp.toNat dc z)

/-- `IDCT d, s` (43_transform.md R391). -/
def execIdct (d src : Slot) (s : State) : Host.Outcome State Fault Refusal :=
  runCommand s do
    let x ← readSlot s src
    storeBlock s d (inverseCore x)

/-- `IHADQ d, s` (43_transform.md R393). -/
def execIhadq (d src : Slot) (s : State) : Host.Outcome State Fault Refusal :=
  runCommand s do
    checkQp s
    let z ← readSlot s src
    storeBlock s d (dequantDc s.qp.toNat z)

/-- `PRES d, s, t` (43_transform.md R392). -/
def execPres (d src t : Slot) (s : State) : Host.Outcome State Fault Refusal :=
  runCommand s do
    checkQp s
    let coeff ← readSlot s src
    let f ← readSlot s t
    storeBlock s d (inverseCore (presTerm s.params.presA s.qp.toNat coeff f))

end Sys2Proof.Machine
end

