-- ==== Sys2Proof/Machine/Dispatch.lean ====
section
/-! DEFINITION. One arm per command: its meaning (30_encoding.md R172, column "semantics"). -/

namespace Sys2Proof.Machine

def exec (i : Instr) (s : State) : Host.Outcome State Fault Refusal :=
  match i with
  | .nop => Sys2Proof.Machine.execNop s
  | .setr rsel imm16 => Sys2Proof.Machine.execSetr rsel imm16 s
  | .setrh rsel imm16 => Sys2Proof.Machine.execSetrh rsel imm16 s
  | .gridclr => Sys2Proof.Machine.execGridclr s
  | .qpdelta => Sys2Proof.Machine.execQpdelta s
  | .bsrd n => Sys2Proof.Machine.execBsrd n s
  | .bspeek n => Sys2Proof.Machine.execBspeek n s
  | .bsrdue => Sys2Proof.Machine.execBsrdue s
  | .bsrdse => Sys2Proof.Machine.execBsrdse s
  | .bswr n => Sys2Proof.Machine.execBswr n s
  | .bswrue => Sys2Proof.Machine.execBswrue s
  | .bswrse => Sys2Proof.Machine.execBswrse s
  | .bsalign fill => Sys2Proof.Machine.execBsalign fill s
  | .bstrail => Sys2Proof.Machine.execBstrail s
  | .bsmore => Sys2Proof.Machine.execBsmore s
  | .bsrdme intra => Sys2Proof.Machine.execBsrdme intra s
  | .bswrme intra => Sys2Proof.Machine.execBswrme intra s
  | .cavlcdec slot mnc plane ncsel bx byy wb => Sys2Proof.Machine.execCavlcdec slot mnc plane ncsel bx byy wb s
  | .cavlcenc slot mnc plane ncsel bx byy wb => Sys2Proof.Machine.execCavlcenc slot mnc plane ncsel bx byy wb s
  | .ncset plane bx byy all => Sys2Proof.Machine.execNcset plane bx byy all s
  | .ncget plane bx byy raw => Sys2Proof.Machine.execNcget plane bx byy raw s
  | .zzfwd d src flag => Sys2Proof.Machine.execZzfwd d src flag s
  | .zzinv d src flag => Sys2Proof.Machine.execZzinv d src flag s
  | .fcore d src => Sys2Proof.Machine.execFcore d src s
  | .fquant d src ac => Sys2Proof.Machine.execFquant d src ac s
  | .fhadq d src => Sys2Proof.Machine.execFhadq d src s
  | .iquant d src dc => Sys2Proof.Machine.execIquant d src dc s
  | .idct d src => Sys2Proof.Machine.execIdct d src s
  | .ihadq d src => Sys2Proof.Machine.execIhadq d src s
  | .pres d src t => Sys2Proof.Machine.execPres d src t s
  | .emov d src dr dc sr sc => Sys2Proof.Machine.execEmov d src dr dc sr sc s
  | .zero d => Sys2Proof.Machine.execZero d s
  | .ipred mode => Sys2Proof.Machine.execIpred mode s
  | .ipsel => Sys2Proof.Machine.execIpsel s
  | .rsub slot bx byy => Sys2Proof.Machine.execRsub slot bx byy s
  | .recon slot bx byy => Sys2Proof.Machine.execRecon slot bx byy s
  | .rcopy => Sys2Proof.Machine.execRcopy s
  | .mvpred => Sys2Proof.Machine.execMvpred s
  | .mvset res => Sys2Proof.Machine.execMvset res s
  | .mcopy => Sys2Proof.Machine.execMcopy s

end Sys2Proof.Machine
end

