-- ==== Sys2Proof/Machine/Flags.lean ====
section
/-! DEFINITION. The four flags of `STATUS` as the host's writes change them (10_state.md R55, R56, R71, R84).
No command computes a condition code: the flags change only by acceptance, by the ends of a command
(`complete`, `errorEnd` in Machine/Ops.lean), by a drop, and by the host's clearing. -/

namespace Sys2Proof.Machine

/-- A command or a write is dropped: `STATUS.DROP <- 1`, nothing else (10_state.md R56, R71). -/
def markDropped (s : State) : State := { s with drop := true }

/-- A command word is accepted (10_state.md R56). -/
def acceptCommand (s : State) (w : Word) : State := { s with cmdlatch := w, done := false, busy := true }

/-- A host write to `CMD` (10_state.md R56, 60_exceptions.md R572). -/
def writeCmd (s : State) (w : Word) : State :=
  if s.busy || s.err then markDropped s else acceptCommand s w

/-- A host write to `STATUS`: bit 3 clears `DROP` (10_state.md R55, R71). -/
def writeStatus (s : State) (v : Word) : State := if v.getLsbD 3 then { s with drop := false } else s

/-- Soft reset (70_reset_and_hazards.md R611): a pending command is abandoned, every register but `ID` is 0, every
`valid` bit is 0; memory contents and their written-ness are kept (10_state.md R85). -/
def softReset (s : State) : State :=
  { s with busy := false, done := false, err := false, drop := false, errcode := .none,
           cmdlatch := 0, errcmd := 0, errpos := 0, res := 0, opr := 0, qp := 0, sliceqp := 0,
           bitpos := 0, bitlen := 0, picdim := 0, mbpos := 0, ncreg := 0, cvstat := 0, sae := 0,
           ncg := invalidateNc s.ncg, mvg := invalidateMv s.mvg }

/-- A host write to `CTRL` (10_state.md R54): `SRESET` wins over `ERRCLR`. -/
def writeCtrl (s : State) (v : Word) : State :=
  if v.getLsbD 0 then softReset s else if v.getLsbD 1 then errorClear s else s

end Sys2Proof.Machine
end

