-- ==== Sys2Proof/Machine/HostBus.lean ====
section
/-! DEFINITION. The host bus (20_memory.md R121 .. R124, 10_state.md R71) and the host's moves
(70_reset_and_hazards.md R617). -/

namespace Sys2Proof.Machine

/-- The byte offset of the word that an access at `off` reaches: `off & ~3` (20_memory.md R121). -/
def wordOffset (off : Word) : Nat := off.toNat / 4 * 4

/-- The places of the host address map (20_memory.md R123). -/
inductive Window
  | register (i : Nat)
  | coeff (k : Nat)
  | predBytes (b : Nat)
  | srcBytes (b : Nat)
  | streamBytes (b : Nat)
  | unmapped
  deriving DecidableEq, Repr

/-- The host address map (20_memory.md R123), at a word-aligned offset. -/
def windowOf (s : State) (o : Nat) : Window :=
  if o < 0x100 then .register (o / 4)
  else if 0x1000 ≤ o ∧ o < 0x1800 then .coeff ((o - 0x1000) / 4)
  else if 0x2000 ≤ o ∧ o < 0x2100 then .predBytes (o - 0x2000)
  else if 0x2100 ≤ o ∧ o < 0x2200 then .srcBytes (o - 0x2100)
  else if 0x10000 ≤ o ∧ o < 0x10000 + s.params.bsbBytes then .streamBytes (o - 0x10000)
  else .unmapped

/-- Byte `j` of a word, little-endian (20_memory.md R122). -/
def byteOf (v : Word) (j : Nat) : Byte := v.extractLsb' (8 * j) 8

/-- The word of four bytes, little-endian (20_memory.md R122). -/
def wordOfBytes (b : List Nat) : Word :=
  BitVec.ofNat 32 (b.getD 0 0 + b.getD 1 0 * 2 ^ 8 + b.getD 2 0 * 2 ^ 16 + b.getD 3 0 * 2 ^ 24)

/-- The bytes of a word written at byte `b` of a byte memory. -/
def byteEntries (b : Nat) (v : Word) : List (Nat × Byte) := (List.range 4).map (fun j => (b + j, byteOf v j))

/-- The stream bits of a word written at byte `b` of `BSB`: bit `k` of the stream is bit `7 - (k mod 8)` of byte
`k >> 3`, and only the bytes below `BSB_BYTES` change (10_state.md R76, 20_memory.md R124). -/
def streamEntries (s : State) (b : Nat) (v : Word) : List (Nat × Bool) :=
  ((List.range 4).filter (fun j => decide (b + j < s.params.bsbBytes))).flatMap
    (fun j => bitEntries (8 * (b + j)) (msbBits 8 (byteOf v j).toNat))

/-- A byte of `BSB` as the host bus sees it; a byte of the word beyond the buffer is unmapped and reads 0 (log 9). -/
def streamByte (s : State) (b : Nat) : Cmd Nat :=
  if b < s.params.bsbBytes then streamBits s (8 * b) 8 else pure 0

/-- A word read while the engine is idle (20_memory.md R123). Storage that nothing has written faults (log 5). -/
def busWord (s : State) (o : Nat) : Cmd Word :=
  match windowOf s o with
  | .register i => pure (readReg s i)
  | .coeff k => written (cellRead s.cb k)
  | .predBytes b => do
    let bs ← readEach (fun j => written (cellRead s.pred (b + j))) (List.range 4)
    pure (wordOfBytes (bs.map BitVec.toNat))
  | .srcBytes b => do
    let bs ← readEach (fun j => written (cellRead s.src (b + j))) (List.range 4)
    pure (wordOfBytes (bs.map BitVec.toNat))
  | .streamBytes b => do
    let bs ← readEach (fun j => streamByte s (b + j)) (List.range 4)
    pure (wordOfBytes bs)
  | .unmapped => pure 0

/-- A word written while the engine is idle, to anything but `CTRL`, `STATUS` and `CMD` (20_memory.md R123, 10_state.md R71). -/
def busStore (s : State) (o : Nat) (v : Word) : State :=
  match windowOf s o with
  | .register i => writeReg s i v
  | .coeff k => { s with cb := cellWrite k v s.cb }
  | .predBytes b => { s with pred := cellWriteAll s.pred (byteEntries b v) }
  | .srcBytes b => { s with src := cellWriteAll s.src (byteEntries b v) }
  | .streamBytes b => { s with bsb := cellWriteAll s.bsb (streamEntries s b v) }
  | .unmapped => s

/-- A host bus write (10_state.md R54, R55, R56, R71, 20_memory.md R123): `CTRL`, `STATUS` and `CMD` go by their own
rules; anything else is dropped while `BUSY = 1`. -/
def busWrite (s : State) (off v : Word) : State :=
  if wordOffset off = 4 then writeCtrl s v
  else if wordOffset off = 8 then writeStatus s v
  else if wordOffset off = 12 then writeCmd s v
  else if s.busy then markDropped s
  else busStore s (wordOffset off) v

/-- A host bus read: the word goes to `hostData`. While `BUSY = 1` anything but `ID` and `STATUS` returns an
unspecified value, drawn as the free value `Config.busyRead` (20_memory.md R123, log 4). -/
def busRead (s : State) (off : Word) : Host.Outcome State Fault Refusal :=
  if s.busy && !decide (wordOffset off = 0) && !decide (wordOffset off = 8) then
    .next { s with hostData := Config.busyRead s.draws, draws := s.draws + 1 }
  else
    match busWord s (wordOffset off) with
    | .ok v => .next { s with hostData := v }
    | .error (.fault f) => .fault f
    | .error (.raise _ _) => .next s

/-- A host move (70_reset_and_hazards.md R617). -/
def hostAct (s : State) (a : HostAction) : Host.Outcome State Fault Refusal :=
  match a with
  | .write off v => .next (busWrite s off v)
  | .read off => busRead s off
  | .supplyRef y x v => .next { s with refFrame := cellWrite (frameKey y.toNat x.toNat) v s.refFrame }
  | .supplyRec y x v => .next { s with recFrame := cellWrite (frameKey y.toNat x.toNat) v s.recFrame }

/-- The move is a bus access: the host has no move that changes `REF` or `REC` during a command
(70_reset_and_hazards.md R617, log 12). -/
def isBusAccess (a : HostAction) : Bool :=
  match a with
  | .write _ _ => true
  | .read _ => true
  | .supplyRef _ _ _ => false
  | .supplyRec _ _ _ => false

/-- The move lands although a command is running. -/
def landsWhileBusy (m : HostMove) : Bool := m.whileBusy && isBusAccess m.action

/-- Whose turn it is (70_reset_and_hazards.md R612, R614): while `BUSY = 1` the engine, unless the host's next move
lands first; while idle the host, if it has a move left (log 2). -/
def turnOf (s : State) : Turn :=
  match s.host with
  | [] => if s.busy then .engine else .idle
  | m :: ms => if s.busy && !landsWhileBusy m then .engine else .host m ms

end Sys2Proof.Machine
end

