-- ==== Sys2Proof/Machine/Engine.lean ====
section
/-! DEFINITION. The engine's move: the whole of the command in `CMDLATCH` (30_encoding.md R160, 70_reset_and_hazards.md R614). -/

namespace Sys2Proof.Machine

/-- The engine decodes and executes `CMDLATCH` (30_encoding.md R160): a word that is no command raises
`IllegalCommand` (60_exceptions.md R569). -/
def engineMove (s : State) : Host.Outcome State Fault Refusal :=
  match decode s.cmdlatch with
  | .ok i => exec i s
  | .error _ => .next (errorEnd s .illegalCommand (here s))

/-- The move of whoever's turn it is; a block with nothing pending waits (70_reset_and_hazards.md R612, log 13). -/
def move (s : State) : Turn → Host.Outcome State Fault Refusal
  | .engine => engineMove s
  | .host m ms => hostAct { s with host := ms } m.action
  | .idle => .next s

/-- The host's moves with the first one waiting for `BUSY = 0`. -/
def firstWaits : List HostMove → List HostMove
  | [] => []
  | m :: ms => { m with whileBusy := false } :: ms

/-- The state in which the word `w` has just been accepted (10_state.md R56), no error is pending, and the engine moves
next. -/
def latched (s : State) (w : Word) : State :=
  { errorClear (acceptCommand s w) with host := firstWaits s.host }

end Sys2Proof.Machine
end

