-- ==== Sys2Proof/Machine/Step.lean ====
section
/-! DEFINITION. One step of the machine: one move of the host, or the whole of one command
(10_state.md R50, 70_reset_and_hazards.md R614). -/

namespace Sys2Proof.Machine

/-- One step. -/
def step (s : State) : Host.Outcome State Fault Refusal := move s (turnOf s)

/-- The state in which the command word `w` (the low `nbits` bits) has been written to `CMD` and accepted: the block
fetches nothing, so this is what places a command (10_state.md R51, R56; log 8). -/
def State.withFetchWord (s : State) (nbits w : Nat) : State := latched s (BitVec.ofNat 32 (w % 2 ^ nbits))

end Sys2Proof.Machine
end

