-- ==== Sys2Proof/Safety.lean ====
section
/-! DEFINITION. What counts as a safe run, in the terms the statements use: the ends of a run (70_reset_and_hazards.md
R616), the invariants of the state (10_state.md), and the words in which the statements say what a command finds in
the state, what it leaves there and what it leaves alone. The tables and formulas below are written from the rules
a second time, apart from the model's own, so that a statement compares the model with the spec. -/

namespace Sys2Proof.Machine

/-! Runs and invariants. -/

/-- The run has ended: "the host's sequence is exhausted and `STATUS.BUSY = 0`" (70_reset_and_hazards.md R616). -/
def State.ended (s : State) : Prop := s.host = [] ∧ s.busy = false

/-- `BITPOS` and `BITLEN` never exceed the buffer (10_state.md R64, R65: PYC's "position never exceeds buffer
length"). -/
def State.cursorInBuffer (s : State) : Prop :=
  s.bitpos.toNat ≤ bufferBits s ∧ s.bitlen.toNat ≤ bufferBits s

/-- The flags of `STATUS` agree with each other (10_state.md R55, 60_exceptions.md R566): a running command has
neither completed nor failed, a failed one has not completed, and `ERRCODE` is 0 exactly while `ERR = 0`. -/
def State.flagsAgree (s : State) : Prop :=
  (s.busy = true → s.done = false ∧ s.err = false) ∧ (s.err = true → s.done = false) ∧
  (s.errcode = .none ↔ s.err = false)

/-- Every entry of the block's own memories lies inside its memory (10_state.md R72, R74 .. R76). -/
def State.entriesInRange (s : State) : Prop :=
  (∀ e ∈ s.cb, e.1 < 512) ∧ (∀ e ∈ s.pred, e.1 < 256) ∧ (∀ e ∈ s.src, e.1 < 256) ∧
  (∀ e ∈ s.bsb, e.1 < bufferBits s)

/-- Every TotalCoeff in the nC grid lies in 0 .. 16 (10_state.md R77). -/
def State.contextInRange (s : State) : Prop := ∀ e ∈ s.ncg, e.2.tc ≤ 16

/-- `m'` has every entry that `m` has, with whatever value: nothing written has become unwritten (10_state.md R83). -/
def staysWritten {α : Type} (m m' : Cells α) : Prop :=
  ∀ k, (cellRead m k).isSome = true → (cellRead m' k).isSome = true

/-! What a command finds in the state. -/

/-- A 4×4 matrix (00_scope.md R10). -/
abbrev Matrix4 := Matrix (Fin 4) (Fin 4) ℤ

/-- `CB[slot][r][c]` has been written and holds `x`. -/
def State.elemIs (s : State) (slot : Slot) (r c : Fin 4) (x : Int) : Prop :=
  ∃ v : Word, cellRead s.cb (16 * slot.toNat + 4 * r.val + c.val) = some v ∧ v.toInt = x

/-- `CB[slot]` has been written and holds the matrix `X`. -/
def State.slotIs (s : State) (slot : Slot) (X : Matrix4) : Prop := ∀ r c, s.elemIs slot r c (X r c)

/-- Nothing has written `CB[slot][r][c]`. -/
def State.elemUnwritten (s : State) (slot : Slot) (r c : Fin 4) : Prop :=
  cellRead s.cb (16 * slot.toNat + 4 * r.val + c.val) = none

/-- The stream bits from `pos` on have been written and are `code`. -/
def State.streamHolds (s : State) (pos : Nat) (code : List Bool) : Prop :=
  ∀ i (h : i < code.length), cellRead s.bsb (pos + i) = some code[i]

/-- The sample kept at `key` has been written and is `x`. -/
def sampleIs (m : Cells Byte) (key : Nat) (x : Int) : Prop :=
  ∃ v : Byte, cellRead m key = some v ∧ (v.toNat : Int) = x

/-- `PICDIM` is legal and `MBPOS` is inside the picture (60_exceptions.md R571). -/
def State.inPicture (s : State) : Prop :=
  1 ≤ wmbs s ∧ wmbs s ≤ s.params.maxWMbs ∧ 1 ≤ hmbs s ∧ hmbs s ≤ s.params.maxHMbs ∧ mbx s < wmbs s ∧ mby s < hmbs s

/-- An element that fits a slot (43_transform.md R380). -/
def fitsSlot (x : Int) : Prop := -2147483648 ≤ x ∧ x ≤ 2147483647

/-! What a command leaves. -/

/-- `t` is `s` after a command that stored `X` in `CB[d]`, wrote nothing else, and completed. -/
def slotStored (s t : State) (d : Slot) (X : Matrix4) : Prop :=
  t.slotIs d X ∧ (∀ k, k / 16 ≠ d.toNat → cellRead t.cb k = cellRead s.cb k) ∧
  t.busy = false ∧ t.done = true ∧ { t with cb := s.cb, busy := s.busy, done := s.done } = s

/-- `t` is `s` after a command that wrote the bits `code` at `BITPOS`, wrote nothing else, and completed
(40_bitstream.md R220). -/
def streamWritten (s t : State) (code : List Bool) : Prop :=
  t.streamHolds s.bitpos.toNat code ∧
  (∀ k, k < s.bitpos.toNat ∨ s.bitpos.toNat + code.length ≤ k → cellRead t.bsb k = cellRead s.bsb k) ∧
  t.bitpos.toNat = s.bitpos.toNat + code.length ∧
  t.bitlen.toNat = max s.bitlen.toNat (s.bitpos.toNat + code.length) ∧
  t.busy = false ∧ t.done = true ∧
  { t with bsb := s.bsb, bitpos := s.bitpos, bitlen := s.bitlen, busy := s.busy, done := s.done } = s

/-- `t` is `s` after a command that stored the samples `f` in `PRED`, wrote nothing else, and completed. -/
def predStored (s t : State) (f : Nat → Nat → Int) : Prop :=
  (∀ y < 16, ∀ x < 16, sampleIs t.pred (16 * y + x) (f y x)) ∧
  (∀ k, 256 ≤ k → cellRead t.pred k = cellRead s.pred k) ∧
  t.busy = false ∧ t.done = true ∧ { t with pred := s.pred, busy := s.busy, done := s.done } = s

/-- The code of an error in `STATUS.ERRCODE` (60_exceptions.md R560). -/
def codeOf (e : ErrCode) : BitVec 4 :=
  match e with
  | .none => 0
  | .bitstreamExhausted => 1
  | .malformedVlcCode => 2
  | .unsupportedFeature => 3
  | .invalidFieldValue => 4
  | .contextNotWritten => 5
  | .arithOverflow => 6
  | .illegalCommand => 7

/-- The word that register `i` reads as (10_state.md R53 .. R70): `ID`, the bits of `STATUS`, each register from its own
storage with zeros above its fields, and 0 for `CTRL`, `CMD` and the reserved ones. -/
def State.registerShown (s : State) (i : Nat) : Word :=
  match i with
  | 0 => 0x50594301
  | 2 => 0#20 ++ codeOf s.errcode ++ 0#4 ++ BitVec.ofBool s.drop ++ BitVec.ofBool s.err ++ BitVec.ofBool s.done ++ BitVec.ofBool s.busy
  | 4 => s.errcmd
  | 5 => s.errpos
  | 6 => s.res
  | 7 => s.opr
  | 8 => 0#26 ++ s.qp
  | 9 => 0#26 ++ s.sliceqp
  | 10 => s.bitpos
  | 11 => s.bitlen
  | 12 => 0#16 ++ s.picdim
  | 13 => 0#16 ++ s.mbpos
  | 14 => 0#24 ++ s.ncreg
  | 15 => s.cvstat
  | 16 => 0#15 ++ s.sae
  | _ => 0

/-- What register `n` holds after `v` is written to it: the defined fields, with the clamp of `BITPOS` and `BITLEN`
(10_state.md R59 .. R67, R71). -/
def fieldsOf (s : State) (n : Nat) (v : Word) : Word :=
  match n with
  | 8 => v &&& 0x3F
  | 9 => v &&& 0x3F
  | 10 => if v.toNat ≤ 8 * s.params.bsbBytes then v else BitVec.ofNat 32 (8 * s.params.bsbBytes)
  | 11 => if v.toNat ≤ 8 * s.params.bsbBytes then v else BitVec.ofNat 32 (8 * s.params.bsbBytes)
  | 12 => v &&& 0xFFFF
  | 13 => v &&& 0xFFFF
  | 14 => v &&& 0xFF
  | _ => v

/-- `t` is `s` but for the flags and register `n`, which holds the defined fields of `v`; `n` is a writable register. -/
def registerStored (s t : State) (n : Nat) (v : Word) : Prop :=
  readReg t n = fieldsOf s n v ∧ (∀ j, j ≠ n → j ≠ 2 → readReg t j = readReg s j) ∧
  { t with res := s.res, opr := s.opr, qp := s.qp, sliceqp := s.sliceqp, bitpos := s.bitpos, bitlen := s.bitlen,
           picdim := s.picdim, mbpos := s.mbpos, ncreg := s.ncreg, busy := s.busy, done := s.done } = s

/-! Scans (41_zigzag.md R260, R264). -/

/-- The 4×4 zig-zag scan as `(row, col)`. -/
def scanOrder : List (Fin 4 × Fin 4) :=
  [(0, 0), (0, 1), (1, 0), (2, 0), (1, 1), (0, 2), (0, 3), (1, 2),
   (2, 1), (3, 0), (3, 1), (2, 2), (1, 3), (2, 3), (3, 2), (3, 3)]

/-- The slot positions of a CAVLC block, in coefficient order. -/
def blockOrder : Mnc → List (Fin 4 × Fin 4)
  | .m16 => scanOrder
  | .m15 => scanOrder.drop 1
  | .m4 => [(0, 0), (0, 1), (1, 0), (1, 1)]

/-! Exp-Golomb codes (40_bitstream.md R221, R222, R233). -/

/-- The codeword with `L` leading zeros and suffix `x`: it stands for `2^L - 1 + x`. -/
def expGolomb (L x : Nat) : List Bool :=
  List.replicate L false ++ true :: (List.range L).map (fun i => x.testBit (L - 1 - i))

/-- The signed value of a codeNum: 1, 2, 3, 4, … stand for 1, -1, 2, -2, … -/
def signedOf (k : Nat) : Int := if k % 2 = 1 then ((k + 1) / 2 : Nat) else -((k / 2 : Nat) : Int)

/-- The `coded_block_pattern` tables, `intra` and `inter`. -/
def patternOf (intra : Bool) : List Nat :=
  if intra then
    [47, 31, 15, 0, 23, 27, 29, 30, 7, 11, 13, 14, 39, 43, 45, 46, 16, 3, 5, 10, 12, 19, 21, 26, 28, 35, 37, 42, 44, 1, 2, 4]
      ++ [8, 17, 18, 20, 24, 6, 9, 22, 25, 32, 33, 34, 36, 40, 38, 41]
  else
    [0, 16, 1, 2, 4, 8, 32, 3, 5, 10, 12, 15, 47, 7, 11, 13, 14, 6, 9, 31, 35, 37, 42, 44, 33, 34, 36, 40, 39, 43, 45, 46]
      ++ [17, 18, 20, 24, 19, 21, 26, 28, 23, 27, 29, 30, 22, 25, 38, 41]

/-! The nC context (42_cavlc.md R281 .. R284). -/

/-- `n` is what a neighbour cell gives: its TotalCoeff if it is inside the picture (`avail`) and valid, nothing if it is
outside. -/
def State.neighbourIs (s : State) (p : Plane) (avail : Prop) (gx gy : Nat) (n : Option Nat) : Prop :=
  (avail → ∃ c, cellRead s.ncg (ncKey p gx gy) = some c ∧ c.valid = true ∧ n = some c.tc) ∧ (¬avail → n = none)

/-- A neighbour cell is inside the picture (`avail`) and its `valid` bit is 0. -/
def State.neighbourMissing (s : State) (p : Plane) (avail : Prop) (gx gy : Nat) : Prop :=
  avail ∧ ∀ c, cellRead s.ncg (ncKey p gx gy) = some c → c.valid = false

/-- nC from the neighbours A and B of cell `(gx, gy)`. -/
def contextOf (rule : NcRule) (gx gy : Nat) (nA nB : Option Nat) : Nat :=
  match rule with
  | .itu => match nA, nB with
    | some a, some b => (a + b + 1) / 2
    | some a, none => a
    | none, some b => b
    | none, none => 0
  | .zeroSubst => if gx = 0 ∧ gy = 0 then 0 else (nA.getD 0 + nB.getD 0 + 1) / 2

/-- The grid gives block `(bx, by)` of the current macroblock the context `n`. -/
def State.gridContextIs (s : State) (p : Plane) (bx byy : Two) (n : Nat) : Prop :=
  ∃ nA nB : Option Nat,
    s.neighbourIs p (0 < cellX s p bx.toNat) (cellX s p bx.toNat - 1) (cellY s p byy.toNat) nA ∧
    s.neighbourIs p (0 < cellY s p byy.toNat) (cellX s p bx.toNat) (cellY s p byy.toNat - 1) nB ∧
    n = contextOf s.params.ncRule (cellX s p bx.toNat) (cellY s p byy.toNat) nA nB

/-- A CAVLC command finds the context `nC` and every check of its configuration holds. -/
def State.contextReady (s : State) (mnc : Mnc) (plane : Option Plane) (ncsel : Bool) (bx byy : Two) (wb : Bool)
    (nC : Int) : Prop :=
  cavlcFieldsOk mnc plane ncsel bx byy wb = true ∧
  ((plane ≠ none ∧ ncsel = false) ∨ wb = true → s.inPicture) ∧
  (plane = none → nC = -1) ∧
  (∀ p, plane = some p → ncsel = true → nC = s.ncreg.toNat) ∧
  (∀ p, plane = some p → ncsel = false → ∃ n, s.gridContextIs p bx byy n ∧ nC = n)

/-- The grid after a CAVLC command with write-back `wb`: the block's cell holds `(1, tc)`, and nothing else changes
(42_cavlc.md R309). -/
def contextWritten (s t : State) (plane : Option Plane) (bx byy : Two) (wb : Bool) (tc : Nat) : Prop :=
  (∀ p, plane = some p → wb = true →
    cellRead t.ncg (ncKey p (cellX s p bx.toNat) (cellY s p byy.toNat)) = some ⟨true, tc⟩) ∧
  (∀ k, (∀ p, plane = some p → wb = true → k ≠ ncKey p (cellX s p bx.toNat) (cellY s p byy.toNat)) →
    cellRead t.ncg k = cellRead s.ncg k)

/-- TotalCoeff of a coefficient list (42_cavlc.md R311). -/
def totalCoeff (coeff : List Int) : Nat := (coeff.filter (· ≠ 0)).length

/-- TrailingOnes of a coefficient list (42_cavlc.md R311): of the first three non-zero coefficients from the highest
frequency down, how many have magnitude 1 before one has not. -/
def onesOf (coeff : List Int) : Nat :=
  (((coeff.filter (· ≠ 0)).reverse.take 3).takeWhile (fun l => l.natAbs = 1)).length

/-! The VLC tables as 42_cavlc.md prints them. An entry is the codeword's bits after a leading 1, so that its zeros are
kept; 0 stands for `-`, and a row ends where only `-` follow. -/

/-- coeff_token for `0 <= nC < 2` (R287): a row for each TotalCoeff, a column for each TrailingOnes. -/
def tokenRows0 : List (List Nat) :=
  [[0b1_1],
   [0b1_000101, 0b1_01],
   [0b1_00000111, 0b1_000100, 0b1_001],
   [0b1_000000111, 0b1_00000110, 0b1_0000101, 0b1_00011],
   [0b1_0000000111, 0b1_000000110, 0b1_00000101, 0b1_000011],
   [0b1_00000000111, 0b1_0000000110, 0b1_000000101, 0b1_0000100],
   [0b1_0000000001111, 0b1_00000000110, 0b1_0000000101, 0b1_00000100],
   [0b1_0000000001011, 0b1_0000000001110, 0b1_00000000101, 0b1_000000100],
   [0b1_0000000001000, 0b1_0000000001010, 0b1_0000000001101, 0b1_0000000100],
   [0b1_00000000001111, 0b1_00000000001110, 0b1_0000000001001, 0b1_00000000100],
   [0b1_00000000001011, 0b1_00000000001010, 0b1_00000000001101, 0b1_0000000001100],
   [0b1_000000000001111, 0b1_000000000001110, 0b1_00000000001001, 0b1_00000000001100],
   [0b1_000000000001011, 0b1_000000000001010, 0b1_000000000001101, 0b1_00000000001000],
   [0b1_0000000000001111, 0b1_000000000000001, 0b1_000000000001001, 0b1_000000000001100],
   [0b1_0000000000001011, 0b1_0000000000001110, 0b1_0000000000001101, 0b1_000000000001000],
   [0b1_0000000000000111, 0b1_0000000000001010, 0b1_0000000000001001, 0b1_0000000000001100],
   [0b1_0000000000000100, 0b1_0000000000000110, 0b1_0000000000000101, 0b1_0000000000001000]]

/-- coeff_token for `2 <= nC < 4` (R288). -/
def tokenRows2 : List (List Nat) :=
  [[0b1_11],
   [0b1_001011, 0b1_10],
   [0b1_000111, 0b1_00111, 0b1_011],
   [0b1_0000111, 0b1_001010, 0b1_001001, 0b1_0101],
   [0b1_00000111, 0b1_000110, 0b1_000101, 0b1_0100],
   [0b1_00000100, 0b1_0000110, 0b1_0000101, 0b1_00110],
   [0b1_000000111, 0b1_00000110, 0b1_00000101, 0b1_001000],
   [0b1_00000001111, 0b1_000000110, 0b1_000000101, 0b1_000100],
   [0b1_00000001011, 0b1_00000001110, 0b1_00000001101, 0b1_0000100],
   [0b1_000000001111, 0b1_00000001010, 0b1_00000001001, 0b1_000000100],
   [0b1_000000001011, 0b1_000000001110, 0b1_000000001101, 0b1_00000001100],
   [0b1_000000001000, 0b1_000000001010, 0b1_000000001001, 0b1_00000001000],
   [0b1_0000000001111, 0b1_0000000001110, 0b1_0000000001101, 0b1_000000001100],
   [0b1_0000000001011, 0b1_0000000001010, 0b1_0000000001001, 0b1_0000000001100],
   [0b1_0000000000111, 0b1_00000000001011, 0b1_0000000000110, 0b1_0000000001000],
   [0b1_00000000001001, 0b1_00000000001000, 0b1_00000000001010, 0b1_0000000000001],
   [0b1_00000000000111, 0b1_00000000000110, 0b1_00000000000101, 0b1_00000000000100]]

/-- coeff_token for `4 <= nC < 8` (R289). -/
def tokenRows4 : List (List Nat) :=
  [[0b1_1111],
   [0b1_001111, 0b1_1110],
   [0b1_001011, 0b1_01111, 0b1_1101],
   [0b1_001000, 0b1_01100, 0b1_01110, 0b1_1100],
   [0b1_0001111, 0b1_01010, 0b1_01011, 0b1_1011],
   [0b1_0001011, 0b1_01000, 0b1_01001, 0b1_1010],
   [0b1_0001001, 0b1_001110, 0b1_001101, 0b1_1001],
   [0b1_0001000, 0b1_001010, 0b1_001001, 0b1_1000],
   [0b1_00001111, 0b1_0001110, 0b1_0001101, 0b1_01101],
   [0b1_00001011, 0b1_00001110, 0b1_0001010, 0b1_001100],
   [0b1_000001111, 0b1_00001010, 0b1_00001101, 0b1_0001100],
   [0b1_000001011, 0b1_000001110, 0b1_00001001, 0b1_00001100],
   [0b1_000001000, 0b1_000001010, 0b1_000001101, 0b1_00001000],
   [0b1_0000001101, 0b1_000000111, 0b1_000001001, 0b1_000001100],
   [0b1_0000001001, 0b1_0000001100, 0b1_0000001011, 0b1_0000001010],
   [0b1_0000000101, 0b1_0000001000, 0b1_0000000111, 0b1_0000000110],
   [0b1_0000000001, 0b1_0000000100, 0b1_0000000011, 0b1_0000000010]]

/-- coeff_token for chroma DC (R291). -/
def tokenRowsDc : List (List Nat) :=
  [[0b1_01],
   [0b1_000111, 0b1_1],
   [0b1_000100, 0b1_000110, 0b1_001],
   [0b1_000011, 0b1_0000011, 0b1_0000010, 0b1_000101],
   [0b1_000010, 0b1_00000011, 0b1_00000010, 0b1_0000000]]

/-- total_zeros for TotalCoeff 1 .. 7 (R300): a row for each total_zeros, a column for each TotalCoeff. -/
def zerosRows1 : List (List Nat) :=
  [[0b1_1, 0b1_111, 0b1_0101, 0b1_00011, 0b1_0101, 0b1_000001, 0b1_000001],
   [0b1_011, 0b1_110, 0b1_111, 0b1_111, 0b1_0100, 0b1_00001, 0b1_00001],
   [0b1_010, 0b1_101, 0b1_110, 0b1_0101, 0b1_0011, 0b1_111, 0b1_101],
   [0b1_0011, 0b1_100, 0b1_101, 0b1_0100, 0b1_111, 0b1_110, 0b1_100],
   [0b1_0010, 0b1_011, 0b1_0100, 0b1_110, 0b1_110, 0b1_101, 0b1_011],
   [0b1_00011, 0b1_0101, 0b1_0011, 0b1_101, 0b1_101, 0b1_100, 0b1_11],
   [0b1_00010, 0b1_0100, 0b1_100, 0b1_100, 0b1_100, 0b1_011, 0b1_010],
   [0b1_000011, 0b1_0011, 0b1_011, 0b1_0011, 0b1_011, 0b1_010, 0b1_0001],
   [0b1_000010, 0b1_0010, 0b1_0010, 0b1_011, 0b1_0010, 0b1_0001, 0b1_001],
   [0b1_0000011, 0b1_00011, 0b1_00011, 0b1_0010, 0b1_00001, 0b1_001, 0b1_000000],
   [0b1_0000010, 0b1_00010, 0b1_00010, 0b1_00010, 0b1_0001, 0b1_000000],
   [0b1_00000011, 0b1_000011, 0b1_000001, 0b1_00001, 0b1_00000],
   [0b1_00000010, 0b1_000010, 0b1_00001, 0b1_00000],
   [0b1_000000011, 0b1_000001, 0b1_000000],
   [0b1_000000010, 0b1_000000],
   [0b1_000000001]]

/-- total_zeros for TotalCoeff 8 .. 15 (R301). -/
def zerosRows8 : List (List Nat) :=
  [[0b1_000001, 0b1_000001, 0b1_00001, 0b1_0000, 0b1_0000, 0b1_000, 0b1_00, 0b1_0],
   [0b1_0001, 0b1_000000, 0b1_00000, 0b1_0001, 0b1_0001, 0b1_001, 0b1_01, 0b1_1],
   [0b1_00001, 0b1_0001, 0b1_001, 0b1_001, 0b1_01, 0b1_1, 0b1_1],
   [0b1_011, 0b1_11, 0b1_11, 0b1_010, 0b1_1, 0b1_01],
   [0b1_11, 0b1_10, 0b1_10, 0b1_1, 0b1_001],
   [0b1_10, 0b1_001, 0b1_01, 0b1_011],
   [0b1_010, 0b1_01, 0b1_0001],
   [0b1_001, 0b1_00001],
   [0b1_000000]]

/-- total_zeros for chroma DC, TotalCoeff 1 .. 3 (R302). -/
def zerosRowsDc : List (List Nat) :=
  [[0b1_1, 0b1_1, 0b1_1],
   [0b1_01, 0b1_01, 0b1_0],
   [0b1_001, 0b1_00],
   [0b1_000]]

/-- run_before (R305): a row for each run, a column for each zerosLeft 1 .. 6 and above 6. -/
def runRows : List (List Nat) :=
  [[0b1_1, 0b1_1, 0b1_11, 0b1_11, 0b1_11, 0b1_11, 0b1_111],
   [0b1_0, 0b1_01, 0b1_10, 0b1_10, 0b1_10, 0b1_000, 0b1_110],
   [0, 0b1_00, 0b1_01, 0b1_01, 0b1_011, 0b1_001, 0b1_101],
   [0, 0, 0b1_00, 0b1_001, 0b1_010, 0b1_011, 0b1_100],
   [0, 0, 0, 0b1_000, 0b1_001, 0b1_010, 0b1_011],
   [0, 0, 0, 0, 0b1_000, 0b1_101, 0b1_010],
   [0, 0, 0, 0, 0, 0b1_100, 0b1_001],
   [0, 0, 0, 0, 0, 0, 0b1_0001],
   [0, 0, 0, 0, 0, 0, 0b1_00001],
   [0, 0, 0, 0, 0, 0, 0b1_000001],
   [0, 0, 0, 0, 0, 0, 0b1_0000001],
   [0, 0, 0, 0, 0, 0, 0b1_00000001],
   [0, 0, 0, 0, 0, 0, 0b1_000000001],
   [0, 0, 0, 0, 0, 0, 0b1_0000000001],
   [0, 0, 0, 0, 0, 0, 0b1_00000000001]]

/-- The bits below the leading 1 of an entry, the first most significant. -/
def wordOf (entry : Nat) : List Bool := (List.range entry.log2).map (fun i => entry.testBit (entry.log2 - 1 - i))

/-- The codeword at a row and a column, if there is one. -/
def wordIn (rows : List (List Nat)) (row col : Nat) : Option (List Bool) :=
  match (rows.getD row []).getD col 0 with
  | 0 => none
  | e + 1 => some (wordOf (e + 1))

/-- The field of `n` bits that holds `v`, most significant first. -/
def fieldBits (n v : Nat) : List Bool := (List.range n).map (fun i => v.testBit (n - 1 - i))

/-- coeff_token for `nC >= 8` (R290). -/
def fixedToken (tc t1 : Nat) : Option (List Bool) :=
  if tc = 0 ∧ t1 = 0 then some (wordOf 0b1_000011)
  else if 1 ≤ tc ∧ tc ≤ 16 ∧ t1 ≤ min 3 tc then some (fieldBits 6 ((tc - 1) <<< 2 ||| t1))
  else none

/-- The coeff_token codeword of `(TotalCoeff, TrailingOnes)` (R285). -/
def tokenWord (nC : Int) (v : Nat × Nat) : Option (List Bool) :=
  if nC < 0 then wordIn tokenRowsDc v.1 v.2
  else if nC < 2 then wordIn tokenRows0 v.1 v.2
  else if nC < 4 then wordIn tokenRows2 v.1 v.2
  else if nC < 8 then wordIn tokenRows4 v.1 v.2
  else fixedToken v.1 v.2

/-- The total_zeros codeword for TotalCoeff `tc >= 1` (R299). -/
def zerosWord (mnc : Mnc) (tc tz : Nat) : Option (List Bool) :=
  if mnc = .m4 then wordIn zerosRowsDc tz (tc - 1)
  else if tc < 8 then wordIn zerosRows1 tz (tc - 1)
  else wordIn zerosRows8 tz (tc - 8)

/-- The run_before codeword with `zl >= 1` zeros left (R305). -/
def runWord (zl run : Nat) : Option (List Bool) := wordIn runRows run (min zl 7 - 1)

/-! The code of a block (42_cavlc.md R294, R298, R311 .. R315). -/

/-- The suffixLength before the first level (R294). -/
def firstSuffixLength (tc t1 : Nat) : Nat := if tc > 10 ∧ t1 < 3 then 1 else 0

/-- The suffixLength after a level (R298). -/
def nextSuffixLength (sl : Nat) (level : Int) : Nat :=
  if max sl 1 < 6 ∧ 3 <<< (max sl 1 - 1) < level.natAbs then max sl 1 + 1 else max sl 1

/-- `levelCode` of a level in the encoder; `after` says that fewer than three trailing ones stand just before it (R313). -/
def levelNumber (after : Bool) (level : Int) : Nat :=
  ((if 0 < level then 2 * level - 2 else -2 * level - 1) - (if after then 2 else 0)).toNat

/-- `level_prefix` zeros, a 1, and the level_suffix `x` of `n` bits. -/
def prefixWord (zeros n x : Nat) : List Bool := List.replicate zeros false ++ [true] ++ fieldBits n x

/-- The codeword of a level, none if it is unencodable (R313). -/
def levelWord (sl : Nat) (after : Bool) (level : Int) : Option (List Bool) :=
  let k := levelNumber after level
  let escape := if sl = 0 then 30 else 15 <<< sl
  if sl = 0 ∧ k < 14 then some (prefixWord k 0 0)
  else if sl = 0 ∧ k < 30 then some (prefixWord 14 4 (k - 14))
  else if k < escape then some (prefixWord (k >>> sl) sl (k % 2 ^ sl))
  else if k < escape + 4096 then some (prefixWord 15 12 (k - escape))
  else none

/-- The codewords of the levels that are no trailing ones (R313). -/
def levelWords (sl : Nat) (after : Bool) : List Int → Option (List Bool)
  | [] => some []
  | l :: ls =>
    match levelWord sl after l, levelWords (nextSuffixLength sl l) false ls with
    | some w, some rest => some (w ++ rest)
    | _, _ => none

/-- The run_before codewords between the scan indices, from the highest down, with `zl` zeros left (R314). -/
def runWords (zl : Nat) : List Nat → Option (List Bool)
  | p :: q :: ps =>
    if zl = 0 then some []
    else match runWord zl (p - q - 1), runWords (zl - (p - q - 1)) (q :: ps) with
      | some w, some rest => some (w ++ rest)
      | _, _ => none
  | _ => some []

/-- The scan indices of the non-zero coefficients, from the highest frequency down (R311). -/
def placesOf (coeff : List Int) : List Nat := ((List.range coeff.length).filter (fun k => coeff.getD k 0 ≠ 0)).reverse

/-- total_zeros: the zeros below the highest non-zero coefficient (R314). -/
def zerosOf (coeff : List Int) : Nat := (placesOf coeff).headD 0 + 1 - totalCoeff coeff

/-- The part of a block's code after the levels: total_zeros and the runs (R299, R314). -/
def zerosCode (coeff : List Int) (mnc : Mnc) : Option (List Bool) :=
  if totalCoeff coeff = 0 ∨ (blockOrder mnc).length ≤ totalCoeff coeff then some []
  else match zerosWord mnc (totalCoeff coeff) (zerosOf coeff), runWords (zerosOf coeff) (placesOf coeff) with
    | some w, some rest => some (w ++ rest)
    | _, _ => none

/-- The code of a coefficient list, none if a level is unencodable (R315): coeff_token, the signs of the trailing ones, the
levels, total_zeros and the runs. -/
def blockCode (coeff : List Int) (nC : Int) (mnc : Mnc) : Option (List Bool) :=
  let levels := (placesOf coeff).map (fun k => coeff.getD k 0)
  let t1 := onesOf coeff
  match tokenWord nC (totalCoeff coeff, t1),
      levelWords (firstSuffixLength (totalCoeff coeff) t1) (decide (t1 < 3)) (levels.drop t1), zerosCode coeff mnc with
  | some token, some rest, some zeros => some (token ++ (levels.take t1).map (fun l => decide (l < 0)) ++ rest ++ zeros)
  | _, _, _ => none

/-! Reading a block (42_cavlc.md R286, R292 .. R308). -/

/-- What reading one syntax element comes to: its value and its number of bits; an error, recorded at the element's first
bit (60_exceptions.md R567); or a bit that nothing has written (10_state.md R83). -/
inductive Reading (α : Type)
  | value (v : α) (bits : Nat)
  | error (e : ErrCode)
  | unwritten
  deriving DecidableEq, Repr

/-- The stream from `pos` up to `BITLEN`, with none for a bit that nothing has written. -/
def State.bitsFrom (s : State) (pos : Nat) : List (Option Bool) :=
  (List.range (s.bitlen.toNat - pos)).map (fun i => cellRead s.bsb (pos + i))

/-- Reading a codeword of a table (R286): the one codeword that the stream begins with; without one, the scan ends at an
unwritten bit, at the end of the stream, or at the table's longest length. -/
def codewordAt {α : Type} (word : α → Option (List Bool)) (values : List α) (bs : List (Option Bool)) : Reading α :=
  let longest := ((values.filterMap word).map List.length).foldr max 0
  let begins (v : α) : Bool := (word v).any (fun w => (w.map some).isPrefixOf bs)
  match values.find? begins with
  | some v => .value v ((word v).getD []).length
  | none =>
    if none ∈ bs.take longest then .unwritten
    else if bs.length < longest then .error .bitstreamExhausted
    else .error .malformedVlcCode

/-- Reading the sign of a trailing one (R293). -/
def signAt (bs : List (Option Bool)) : Reading Int :=
  match bs with
  | [] => .error .bitstreamExhausted
  | none :: _ => .unwritten
  | some b :: _ => .value (if b then -1 else 1) 1

/-- The number that a field's bits write, the first most significant. -/
def fieldValue : List Bool → Nat
  | [] => 0
  | b :: bs => (if b then 2 ^ bs.length else 0) + fieldValue bs

/-- `levelSuffixSize` (R296). -/
def suffixBits (zeros sl : Nat) : Nat := if zeros = 15 then 12 else if zeros = 14 ∧ sl = 0 then 4 else sl

/-- The level of a prefix of `zeros` and a suffix `x` (R297). -/
def levelValue (zeros sl x : Nat) (after : Bool) : Int :=
  let k := zeros <<< sl + x + (if zeros = 15 ∧ sl = 0 then 15 else 0) + (if after then 2 else 0)
  if k % 2 = 0 then ((k + 2) / 2 : Nat) else -((k + 1) / 2 : Nat)

/-- Reading a level: a prefix of at most 15 zeros and its 1, and the whole suffix (R295 .. R297, R308). -/
def levelAt (sl : Nat) (after : Bool) (bs : List (Option Bool)) : Reading Int :=
  let zeros := (bs.takeWhile (· = some false)).length
  let n := suffixBits zeros sl
  let suffix := (bs.drop (zeros + 1)).take n
  if 16 ≤ zeros then .error .malformedVlcCode
  else if bs.length ≤ zeros then .error .bitstreamExhausted
  else if bs.getD zeros none = none then .unwritten
  else if suffix.length < n then .error .bitstreamExhausted
  else if none ∈ suffix then .unwritten
  else .value (levelValue zeros sl (fieldValue (suffix.map (·.getD false))) after) (zeros + 1 + n)

/-- The reading of the element at `pos`, with the position after it. -/
def Reading.from {α : Type} (r : Reading α) (pos : Nat) : Cmd (α × Nat) :=
  match r with
  | .value v bits => .ok (v, pos + bits)
  | .error e => raise e pos
  | .unwritten => .error (.fault .undefinedRead)

/-- The signs of the `t` trailing ones left (R293). -/
def State.signsFrom (s : State) : Nat → Nat → Cmd (List Int × Nat)
  | 0, pos => .ok ([], pos)
  | t + 1, pos => do
    let (l, p) ← (signAt (s.bitsFrom pos)).from pos
    let (ls, q) ← s.signsFrom t p
    .ok (l :: ls, q)

/-- The `n` levels left (R295 .. R298). -/
def State.levelsFrom (s : State) : Nat → Nat → Bool → Nat → Cmd (List Int × Nat)
  | 0, _, _, pos => .ok ([], pos)
  | n + 1, sl, after, pos => do
    let (l, p) ← (levelAt sl after (s.bitsFrom pos)).from pos
    let (ls, q) ← s.levelsFrom n (nextSuffixLength sl l) false p
    .ok (l :: ls, q)

/-- total_zeros of a block of `tc >= 1` non-zero coefficients (R299, R303). -/
def State.zerosFrom (s : State) (mnc : Mnc) (tc pos : Nat) : Cmd (Nat × Nat) :=
  if (blockOrder mnc).length ≤ tc then .ok (0, pos) else do
    let (tz, p) ← (codewordAt (zerosWord mnc tc) (List.range 16) (s.bitsFrom pos)).from pos
    if (blockOrder mnc).length - tc < tz then raise .invalidFieldValue pos else .ok (tz, p)

/-- The runs of the `n` coefficients left, with `zl` zeros left (R304). -/
def State.runsFrom (s : State) : Nat → Nat → Nat → Cmd (List Nat × Nat)
  | 0, _, pos => .ok ([], pos)
  | 1, zl, pos => .ok ([zl], pos)
  | n + 2, 0, pos => .ok (List.replicate (n + 2) 0, pos)
  | n + 2, zl + 1, pos => do
    let (r, p) ← (codewordAt (runWord (zl + 1)) (List.range 15) (s.bitsFrom pos)).from pos
    if zl + 1 < r then raise .invalidFieldValue pos else do
      let (rs, q) ← s.runsFrom (n + 1) (zl + 1 - r) p
      .ok (r :: rs, q)

/-- A block as it was read: its levels and runs from the highest frequency down, TrailingOnes, and the position after it. -/
structure BlockRead where
  levels : List Int
  runs : List Nat
  ones : Nat
  stop : Nat
  deriving DecidableEq, Repr

/-- Reading a block at `BITPOS` (R308). -/
def State.blockAt (s : State) (nC : Int) (mnc : Mnc) : Cmd BlockRead := do
  let start := s.bitpos.toNat
  let pairs := (List.range 17).flatMap (fun tc => (List.range 4).map (fun t1 => (tc, t1)))
  let ((tc, t1), p) ← (codewordAt (tokenWord nC) pairs (s.bitsFrom start)).from start
  if (blockOrder mnc).length < tc then raise .invalidFieldValue start
  else if tc = 0 then .ok ⟨[], [], t1, p⟩
  else do
    let (signs, q) ← s.signsFrom t1 p
    let (levels, q) ← s.levelsFrom (tc - t1) (firstSuffixLength tc t1) (decide (t1 < 3)) q
    let (tz, q) ← s.zerosFrom mnc tc q
    let (runs, q) ← s.runsFrom tc tz q
    .ok ⟨signs ++ levels, runs, t1, q⟩

/-- The levels with their scan indices: below a level lie its run and every later level with its own (R306). -/
def placed : List Int → List Nat → List (Nat × Int)
  | l :: ls, r :: rs => (r + rs.sum + ls.length, l) :: placed ls rs
  | _, _ => []

/-- The coefficient at scan index `k` of a block that was read (R306). -/
def BlockRead.coeffAt (b : BlockRead) (k : Nat) : Int := ((placed b.levels b.runs).lookup k).getD 0

/-- The VLC tables with numbers for values: total_zeros (R300 .. R302) and run_before (R305). -/
def numberTables : List (List (VlcEntry Nat)) :=
  (List.range' 1 15).map totalZeros ++ (List.range' 1 3).map totalZerosCdc ++ (List.range' 1 7).map runBefore

/-- The coeff_token tables (R287 .. R291). -/
def tokenTables : List (List (VlcEntry (Nat × Nat))) := [ct0, ct1, ct2, ctFlc, ctCdc]

/-- A table's decoder and its encoder agree (R319): reading a codeword gives the value that is encoded to it, and
every value that is read is encoded to the bits that were read. -/
def tableShared {α : Type} [DecidableEq α] (t : List (VlcEntry α)) : Prop :=
  (∀ v code, vlcCode t v = some code → ∀ s pos, s.streamHolds pos code → pos + code.length ≤ s.bitlen.toNat →
    vlcRead s t pos = .ok (v, pos + code.length)) ∧
  (∀ s pos v q, vlcRead s t pos = .ok (v, q) → ∃ code, vlcCode t v = some code ∧ s.streamHolds pos code ∧
    q = pos + code.length)

/-! Transforms (43_transform.md R381 .. R393). -/

/-- `Cf` (R382). -/
def coreOf : Matrix4 := !![1, 1, 1, 1; 2, 1, -1, -2; 1, -1, -1, 1; 1, -2, 2, -1]

/-- `H` (R386). -/
def hadamardOf : Matrix4 := !![1, 1, 1, 1; 1, 1, -1, -1; 1, -1, -1, 1; 1, -1, 1, -1]

/-- The position class (R381). -/
def classOf (r c : Fin 4) : Fin 3 :=
  if r.val % 2 = 0 ∧ c.val % 2 = 0 then 0 else if r.val % 2 = 1 ∧ c.val % 2 = 1 then 1 else 2

/-- `MF[QP%6][cls]` (R383). -/
def forwardFactor (qp : Nat) (cls : Fin 3) : Int :=
  match qp % 6 with
  | 0 => ![13107, 5243, 8066] cls
  | 1 => ![11916, 4660, 7490] cls
  | 2 => ![10082, 4194, 6554] cls
  | 3 => ![9362, 3647, 5825] cls
  | 4 => ![8192, 3355, 5243] cls
  | _ => ![7282, 2893, 4559] cls

/-- `V[QP%6][cls]` (R388). -/
def inverseFactor (qp : Nat) (cls : Fin 3) : Int :=
  match qp % 6 with
  | 0 => ![10, 16, 13] cls
  | 1 => ![11, 18, 14] cls
  | 2 => ![13, 20, 16] cls
  | 3 => ![14, 23, 18] cls
  | 4 => ![16, 25, 20] cls
  | _ => ![18, 29, 23] cls

/-- `z` is `x / 2^k` rounded as `FWD_ROUND` says (R384): half away from zero by its formula, half to even as the nearest
integer. -/
def roundsTo (rule : FwdRound) (x : Int) (k : Nat) (z : Int) : Prop :=
  match rule with
  | .halfAway => z = (if 0 ≤ x then 1 else -1) * ((|x| + 2 ^ (k - 1)) / 2 ^ k)
  | .halfEven => 2 * |x - z * 2 ^ k| ≤ 2 ^ k ∧ (2 * |x - z * 2 ^ k| = 2 ^ k → z % 2 = 0)

/-- One stage of the butterfly on four values (R390). -/
def stageOf (a b c d : Int) : Fin 4 → Int :=
  ![(a + c) + (b + (d >>> 1)), (a - c) + ((b >>> 1) - d), (a - c) - ((b >>> 1) - d), (a + c) - (b + (d >>> 1))]

/-- `(Butterfly(D) + 2^5) >> 6` (R390, R391): the rows, then the columns. -/
def inverseOf (D : Matrix4) : Matrix4 :=
  let F : Matrix4 := Matrix.of fun i => stageOf (D i 0) (D i 1) (D i 2) (D i 3)
  Matrix.of fun r c => (stageOf (F 0 c) (F 1 c) (F 2 c) (F 3 c) r + 32) >>> 6

/-- The inverse luma-DC scaling of `f` (R393). -/
def dcScaled (qp : Nat) (f : Int) : Int :=
  if 12 ≤ qp then (f * inverseFactor qp 0) * 2 ^ (qp / 6 - 2)
  else (f * inverseFactor qp 0 + 2 ^ (1 - qp / 6)) >>> (2 - qp / 6)

/-- `Cs` (R392). -/
def presSum (a : List Int) (qp : Nat) (coeff f : Matrix4) : Matrix4 :=
  Matrix.of fun r c => f r c + ((coeff r c * inverseFactor qp (classOf r c) * a.getD (4 * r.val + c.val) 0) * 2 ^ (qp / 6)) >>> 6

/-! Prediction (44_prediction.md R451 .. R456). -/

/-- The available intra neighbours have been written: `H` above, `V` to the left, `P` at the corner (R451). -/
def State.intraIs (s : State) (H V : Nat → Int) (P : Int) : Prop :=
  (0 < mby s → ∀ x < 16, sampleIs s.recFrame (frameKey (16 * mby s - 1) (16 * mbx s + x)) (H x)) ∧
  (0 < mbx s → ∀ y < 16, sampleIs s.recFrame (frameKey (16 * mby s + y) (16 * mbx s - 1)) (V y)) ∧
  (0 < mby s → 0 < mbx s → sampleIs s.recFrame (frameKey (16 * mby s - 1) (16 * mbx s - 1)) P)

/-- An available intra neighbour has not been written. -/
def State.intraUnwritten (s : State) : Prop :=
  (0 < mby s ∧ ∃ x < 16, cellRead s.recFrame (frameKey (16 * mby s - 1) (16 * mbx s + x)) = none) ∨
  (0 < mbx s ∧ ∃ y < 16, cellRead s.recFrame (frameKey (16 * mby s + y) (16 * mbx s - 1)) = none) ∨
  (0 < mby s ∧ 0 < mbx s ∧ cellRead s.recFrame (frameKey (16 * mby s - 1) (16 * mbx s - 1)) = none)

/-- The mode's neighbours lie inside the picture (R455). -/
def State.modeAvailable (s : State) (mode : Two) : Prop :=
  (mode = 0 → 0 < mby s) ∧ (mode = 1 → 0 < mbx s) ∧ (mode = 3 → 0 < mby s ∧ 0 < mbx s)

/-- A line of neighbours with the corner at index -1 (R454). -/
def withCorner (line : Nat → Int) (corner : Int) (i : Int) : Int := if i = -1 then corner else line i.toNat

/-- The weighted sum of the plane fit (R454). -/
def gradientOf (line : Nat → Int) (corner : Int) : Int :=
  ∑ k ∈ Finset.range 8, ((k : Int) + 1) * (withCorner line corner (8 + k) - withCorner line corner (6 - k))

/-- The DC value (R454). -/
def dcOf (availH availV : Prop) [Decidable availH] [Decidable availV] (H V : Nat → Int) : Int :=
  if availH ∧ availV then (∑ i ∈ Finset.range 16, H i + ∑ i ∈ Finset.range 16, V i + 16) >>> 5
  else if availH then (∑ i ∈ Finset.range 16, H i + 8) >>> 4
  else if availV then (∑ i ∈ Finset.range 16, V i + 8) >>> 4
  else 128

/-- The plane prediction (R454). -/
def planeOfLines (H V : Nat → Int) (P : Int) (y x : Nat) : Int :=
  max 0 (min 255 ((16 * (V 15 + H 15) + ((5 * gradientOf H P + 32) >>> 6) * ((x : Int) - 7)
    + ((5 * gradientOf V P + 32) >>> 6) * ((y : Int) - 7) + 16) >>> 5))

/-- The prediction of a mode (R452 .. R454). -/
def State.predictionOf (s : State) (H V : Nat → Int) (P : Int) (mode : Two) (y x : Nat) : Int :=
  match mode.toNat with
  | 0 => H x
  | 1 => V y
  | 2 => dcOf (0 < mby s) (0 < mbx s) H V
  | _ => planeOfLines H V P y x

/-- The sum of absolute errors of a mode against the source `S` (R456). -/
def State.errorOf (s : State) (S : Nat → Nat → Int) (H V : Nat → Int) (P : Int) (mode : Two) : Int :=
  ∑ y ∈ Finset.range 16, ∑ x ∈ Finset.range 16, |S y x - s.predictionOf H V P mode y x|

/-- The sample `(r, c)` of block `(bx, by)` of a 16×16 buffer has been written and is `x` (30_encoding.md R169). -/
def blockSampleIs (m : Cells Byte) (bx byy : Two) (r c : Fin 4) (x : Int) : Prop :=
  sampleIs m (16 * (4 * byy.toNat + r.val) + (4 * bx.toNat + c.val)) x

/-- Nothing has written the sample `(r, c)` of block `(bx, by)`. -/
def blockSampleUnwritten (m : Cells Byte) (bx byy : Two) (r c : Fin 4) : Prop :=
  cellRead m (16 * (4 * byy.toNat + r.val) + (4 * bx.toNat + c.val)) = none

/-- Where the sample `(y, x)` of the current macroblock stands in `REC`. -/
def recKey (s : State) (y x : Nat) : Nat := frameKey (16 * mby s + y) (16 * mbx s + x)

/-! Motion (44_prediction.md R460 .. R466). -/

/-- `v` is what a macroblock of the motion-vector grid gives: its vector if it is inside the picture (`avail`) and
valid, nothing if it is outside. -/
def State.vectorIs (s : State) (avail : Prop) (mx my : Nat) (v : Option (Int × Int)) : Prop :=
  (avail → ∃ c, cellRead s.mvg (mvKey mx my) = some c ∧ c.valid = true ∧ v = some (c.mvx.toInt, c.mvy.toInt)) ∧
  (¬avail → v = none)

/-- A macroblock of the grid is inside the picture (`avail`) and its `valid` bit is 0. -/
def State.vectorMissing (s : State) (avail : Prop) (mx my : Nat) : Prop :=
  avail ∧ ∀ c, cellRead s.mvg (mvKey mx my) = some c → c.valid = false

/-- The middle one of three values. -/
def middleOf (a b c : Int) : Int := max (min a b) (min (max a b) c)

/-- The predictor of three neighbours (R461, R462). -/
def vectorOf (a b c : Option (Int × Int)) : Int × Int :=
  let first := (a.or (b.or c)).getD (0, 0)
  (middleOf (a.getD first).1 (b.getD first).1 (c.getD first).1, middleOf (a.getD first).2 (b.getD first).2 (c.getD first).2)

/-- A motion-vector component as a sample offset (R466). -/
def offsetOf (shift : MvShift) (v : Int) : Int :=
  match shift with
  | .whole => v
  | .quarter => v >>> 2

/-- Where the reference sample for sample `(y, x)` of the current macroblock stands in `REF` (R465). -/
def referenceKey (s : State) (mvx mvy : Int) (y x : Nat) : Nat :=
  frameKey
    (max 0 (min (16 * (hmbs s : Int) - 1) (16 * (mby s : Int) + y + offsetOf s.params.mvShift mvy))).toNat
    (max 0 (min (16 * (wmbs s : Int) - 1) (16 * (mbx s : Int) + x + offsetOf s.params.mvShift mvx))).toNat

/-! Legal command words (30_encoding.md R160, R171, R172). -/

/-- The `match` and `mask` of an opcode in the opcode map (R172); none for a reserved opcode (R173). -/
def rowOf (op : Nat) : Option (Nat × Nat) :=
  match op with
  | 0x00 => some (0x00000000, 0xFFFFFFFF)
  | 0x01 => some (0x04000000, 0xFC0F0000)
  | 0x02 => some (0x08000000, 0xFC0F0000)
  | 0x03 => some (0x0C000000, 0xFFFFFFFF)
  | 0x04 => some (0x10000000, 0xFFFFFFFF)
  | 0x08 => some (0x20000000, 0xFFFFFFC0)
  | 0x09 => some (0x24000000, 0xFFFFFFC0)
  | 0x0A => some (0x28000000, 0xFFFFFFFF)
  | 0x0B => some (0x2C000000, 0xFFFFFFFF)
  | 0x0C => some (0x30000000, 0xFFFFFFC0)
  | 0x0D => some (0x34000000, 0xFFFFFFFF)
  | 0x0E => some (0x38000000, 0xFFFFFFFF)
  | 0x0F => some (0x3C000000, 0xFFFFFFFE)
  | 0x10 => some (0x40000000, 0xFFFFFFFF)
  | 0x11 => some (0x44000000, 0xFFFFFFFF)
  | 0x12 => some (0x48000000, 0xFFFFFFFE)
  | 0x13 => some (0x4C000000, 0xFFFFFFFE)
  | 0x18 => some (0x60000000, 0xFC0007FF)
  | 0x19 => some (0x64000000, 0xFC0007FF)
  | 0x1A => some (0x68000000, 0xFFF907FF)
  | 0x1B => some (0x6C000000, 0xFFF907FF)
  | 0x20 => some (0x80000000, 0xFC00FBFF)
  | 0x21 => some (0x84000000, 0xFC00FBFF)
  | 0x22 => some (0x88000000, 0xFC00FFFF)
  | 0x23 => some (0x8C000000, 0xFC00FBFF)
  | 0x24 => some (0x90000000, 0xFC00FFFF)
  | 0x25 => some (0x94000000, 0xFC00FBFF)
  | 0x26 => some (0x98000000, 0xFC00FFFF)
  | 0x27 => some (0x9C000000, 0xFC00FFFF)
  | 0x28 => some (0xA0000000, 0xFC0007FF)
  | 0x29 => some (0xA4000000, 0xFC0000FF)
  | 0x2A => some (0xA8000000, 0xFC1FFFFF)
  | 0x30 => some (0xC0000000, 0xFFFFFFFC)
  | 0x31 => some (0xC4000000, 0xFFFFFFFF)
  | 0x32 => some (0xC8000000, 0xFC1F0FFF)
  | 0x33 => some (0xCC000000, 0xFC1F0FFF)
  | 0x34 => some (0xD0000000, 0xFFFFFFFF)
  | 0x38 => some (0xE0000000, 0xFFFFFFFF)
  | 0x39 => some (0xE4000000, 0xFFFFFFFE)
  | 0x3A => some (0xE8000000, 0xFFFFFFFF)
  | _ => none

/-- The value constraints of R171 on the raw fields of a word. -/
def constraintsHold (w : Word) : Prop :=
  let op := (w.extractLsb' 26 6).toNat
  let rsel := (w.extractLsb' 20 6).toNat
  let n := (w.extractLsb' 0 6).toNat
  let mnc := (w.extractLsb' 19 2).toNat
  let plane := (w.extractLsb' 17 2).toNat
  let ncsel := (w.extractLsb' 16 1).toNat
  let bx := (w.extractLsb' 14 2).toNat
  let byy := (w.extractLsb' 12 2).toNat
  let wb := (w.extractLsb' 11 1).toNat
  (op = 0x01 ∨ op = 0x02 → 6 ≤ rsel ∧ rsel ≤ 14) ∧
  (op = 0x08 ∨ op = 0x09 ∨ op = 0x0C → n ≤ 32) ∧
  (op = 0x18 ∨ op = 0x19 →
    mnc ≠ 3 ∧ (mnc = 2 ↔ plane = 3) ∧ (plane = 3 → ncsel = 0 ∧ wb = 0 ∧ bx = 0 ∧ byy = 0) ∧
    (plane = 1 ∨ plane = 2 → bx ≤ 1 ∧ byy ≤ 1)) ∧
  (op = 0x1A →
    (plane = 3 → wb = 1) ∧ (wb = 1 → bx = 0 ∧ byy = 0) ∧ (plane = 1 ∨ plane = 2 → bx ≤ 1 ∧ byy ≤ 1)) ∧
  (op = 0x1B → plane ≠ 3 ∧ (plane = 1 ∨ plane = 2 → bx ≤ 1 ∧ byy ≤ 1))

/-- `w` is a command word: its opcode is defined, its mask holds, and its constraints hold. -/
def legalWord (w : Word) : Prop :=
  ∃ mm, rowOf (w.extractLsb' 26 6).toNat = some mm ∧ w &&& BitVec.ofNat 32 mm.2 = BitVec.ofNat 32 mm.1 ∧ constraintsHold w

/-- The host's next move, if any, does not land while a command runs, so that while `BUSY = 1` the engine moves. -/
def State.hostWaits (s : State) : Prop := ∀ m ms, s.host = m :: ms → landsWhileBusy m = false

end Sys2Proof.Machine

namespace Sys2Proof

/-! Which commands write which state (10_state.md R59 .. R80, and the "Writes" line of each command's rule). -/

def Instr.setsRegister : Instr → Bool
  | .setr _ _ => true
  | .setrh _ _ => true
  | _ => false

/-- `RES` (10_state.md R59). -/
def Instr.writesRes : Instr → Bool
  | .setr _ _ | .setrh _ _ | .bsrd _ | .bspeek _ | .bsrdue | .bsrdse | .bsmore | .bsrdme _ => true
  | .cavlcdec _ _ _ _ _ _ _ | .cavlcenc _ _ _ _ _ _ _ | .ncget _ _ _ _ | .ipsel | .mvpred => true
  | _ => false

/-- `BITPOS` (40_bitstream.md R223 .. R235, 42_cavlc.md R309). -/
def Instr.writesBitpos : Instr → Bool
  | .setr _ _ | .setrh _ _ | .bsrd _ | .bsrdue | .bsrdse | .bsrdme _ | .bswr _ | .bswrue | .bswrse => true
  | .bswrme _ | .bsalign _ | .bstrail | .cavlcdec _ _ _ _ _ _ _ | .cavlcenc _ _ _ _ _ _ _ => true
  | _ => false

/-- `BSB` and `BITLEN` (40_bitstream.md R227 .. R231, R235, 42_cavlc.md R316). -/
def Instr.writesStream : Instr → Bool
  | .bswr _ | .bswrue | .bswrse | .bswrme _ | .bstrail | .cavlcenc _ _ _ _ _ _ _ => true
  | .bsalign fill => fill
  | _ => false

/-- `CB` (the slot-writing commands of files 41 .. 45). -/
def Instr.writesCb : Instr → Bool
  | .cavlcdec _ _ _ _ _ _ _ | .zzfwd _ _ _ | .zzinv _ _ _ | .fcore _ _ | .fquant _ _ _ | .fhadq _ _ => true
  | .iquant _ _ _ | .idct _ _ | .ihadq _ _ | .pres _ _ _ | .emov _ _ _ _ _ _ | .zero _ | .rsub _ _ _ => true
  | _ => false

/-- `PRED` (10_state.md R74). -/
def Instr.writesPred : Instr → Bool
  | .ipred _ | .ipsel | .mcopy => true
  | _ => false

/-- `NCG` (10_state.md R77). -/
def Instr.writesNcg : Instr → Bool
  | .cavlcdec _ _ _ _ _ _ wb => wb
  | .cavlcenc _ _ _ _ _ _ wb => wb
  | .ncset _ _ _ _ | .gridclr => true
  | _ => false

/-- `MVG` (10_state.md R78). -/
def Instr.writesMvg : Instr → Bool
  | .mvset _ | .gridclr => true
  | _ => false

/-- `REC` (10_state.md R79). -/
def Instr.writesRec : Instr → Bool
  | .recon _ _ _ | .rcopy => true
  | _ => false

/-- `CVSTAT` (10_state.md R68). -/
def Instr.writesCvstat : Instr → Bool
  | .cavlcdec _ _ _ _ _ _ _ | .cavlcenc _ _ _ _ _ _ _ => true
  | _ => false

/-! Which commands raise which error (60_exceptions.md R561 .. R569). -/

/-- The commands that read or write the stream, all but `BSALIGN fill` (R561, 40_bitstream.md R230). -/
def Instr.mayExhaust : Instr → Bool
  | .bsrd _ | .bspeek _ | .bsrdue | .bsrdse | .bsrdme _ | .bswr _ | .bswrue | .bswrse | .bswrme _ | .bstrail => true
  | .bsalign fill => !fill
  | .cavlcdec _ _ _ _ _ _ _ | .cavlcenc _ _ _ _ _ _ _ => true
  | _ => false

/-- `MalformedVlcCode` (R560). -/
def Instr.mayMalform : Instr → Bool
  | .bsrdue | .bsrdse | .bsrdme _ | .cavlcdec _ _ _ _ _ _ _ => true
  | _ => false

/-- `ContextNotWritten` (R565). -/
def Instr.readsContext : Instr → Bool
  | .cavlcdec _ _ plane ncsel _ _ _ | .cavlcenc _ _ plane ncsel _ _ _ => plane.isSome && !ncsel
  | .ncget _ _ _ _ | .mvpred | .mcopy => true
  | _ => false

/-- The commands that read `QP` (R571). -/
def Instr.readsQp : Instr → Bool
  | .fquant _ _ _ | .fhadq _ _ | .iquant _ _ _ | .ihadq _ _ | .pres _ _ _ => true
  | _ => false

/-- The commands that use the macroblock position or a grid (R571). -/
def Instr.usesPicture : Instr → Bool
  | .cavlcdec _ _ plane ncsel _ _ wb | .cavlcenc _ _ plane ncsel _ _ wb => (plane.isSome && !ncsel) || wb
  | .ncset _ _ _ _ | .ncget _ _ _ _ | .ipred _ | .ipsel | .recon _ _ _ | .rcopy | .mvpred | .mvset _ | .mcopy => true
  | _ => false

/-- `InvalidFieldValue` (the table of R564). -/
def Instr.mayInvalidate : Instr → Bool
  | .qpdelta | .bswrue | .bswrse | .bsrdme _ | .bswrme _ | .cavlcdec _ _ _ _ _ _ _ | .cavlcenc _ _ _ _ _ _ _ => true
  | i => i.readsQp || i.usesPicture

/-- `ArithOverflow` (R568). -/
def Instr.mayOverflow : Instr → Bool
  | .fcore _ _ | .fquant _ _ _ | .fhadq _ _ | .iquant _ _ _ | .idct _ _ | .ihadq _ _ | .pres _ _ _ => true
  | _ => false

end Sys2Proof
end

