-- ==== Sys2Proof/Certificates/Slice0/Obligations.lean ====
section
/-! DEFINITION. The statements for the provers. Each docstring names the rule it formalises; log entries of
notes/assumptions/ are named where a statement rests on a choice of the model. Where a statement says that a command
which completes changes nothing else, that takes in `CMDLATCH`: that it keeps its word is the model's choice (log 11). -/

open Sys2Proof Sys2Proof.Machine

/-! Encoding. -/

/-- Every well-formed command decodes from its own word, with every operand at every value
(30_encoding.md R160 .. R172). -/
def Obligations.DecodeOfEncodeIsTheCommand : Prop :=
  ∀ i : Instr, i.wellFormed = true → decode (encode i) = .ok i

/-- A word that decodes is the word of its command: no bit of a legal word is ignored (30_encoding.md R161: "a command
ignores no field"). -/
def Obligations.EncodeOfDecodeIsTheWord : Prop :=
  ∀ (w : Word) (i : Instr), decode w = .ok i → encode i = w ∧ i.wellFormed = true

/-- 30_encoding.md R180: the worked encoding examples. -/
def Obligations.WorkedExamplesDecode : Prop :=
  decode 0x00000000 = .ok .nop ∧
  decode 0x0480001C = .ok (.setr 8 28) ∧
  decode 0x0470FFFD = .ok (.setr 7 0xFFFD) ∧
  decode 0x20000008 = .ok (.bsrd 8) ∧
  decode 0x3C000001 = .ok (.bsalign true) ∧
  decode 0x60A86800 = .ok (.cavlcdec 5 .m15 (some .y) false 1 2 true) ∧
  decode 0x62960000 = .ok (.cavlcdec 20 .m4 none false 0 0 false) ∧
  decode 0x60010000 = .ok (.cavlcdec 0 .m16 (some .y) true 0 0 false) ∧
  decode 0x68060800 = .ok (.ncset none 0 0 true) ∧
  decode 0x84200000 = .ok (.zzinv 1 0 false) ∧
  decode 0x8C410400 = .ok (.fquant 2 1 true) ∧
  decode 0xA0611000 = .ok (.pres 3 1 2) ∧
  decode 0xA4710300 = .ok (.emov 3 17 0 0 0 3) ∧
  decode 0xC0000002 = .ok (.ipred 2) ∧
  decode 0xCC004000 = .ok (.recon 0 1 0) ∧
  decode 0xE4000001 = .ok (.mvset true)

/-- 30_encoding.md R171, R173, R174 with R160 and R172: the words that decode are exactly the words with a defined opcode,
zero reserved fields and fields within the constraints; the engine ends every other one with `IllegalCommand` at
`BITPOS`, whatever else the state holds. -/
def Obligations.IllegalWordsRaiseIllegalCommand : Prop :=
  (∀ w : Word, legalWord w ↔ ∃ i, decode w = .ok i) ∧
  (∀ s : State, s.busy = true → s.hostWaits → ¬legalWord s.cmdlatch →
    step s = .next { s with err := true, errcode := .illegalCommand, errcmd := s.cmdlatch, errpos := s.bitpos,
                            busy := false, done := false })

/-! The machine. -/

/-- 30_encoding.md R160, 70_reset_and_hazards.md R612, R614: while a command runs and the host waits, a step executes
the command that `CMDLATCH` decodes to; `withFetchWord` leads to such a step; a host with a move left makes it while the
block is idle; an idle block with no host move waits unchanged (log 8, log 13). -/
def Obligations.StepRunsTheDecodedCommand : Prop :=
  (∀ (s : State) (i : Instr), s.busy = true → s.hostWaits → decode s.cmdlatch = .ok i → step s = exec i s) ∧
  (∀ (s : State) (nbits w : Nat) (i : Instr), decode (BitVec.ofNat 32 (w % 2 ^ nbits)) = .ok i →
    step (s.withFetchWord nbits w) = exec i (s.withFetchWord nbits w)) ∧
  (∀ (s : State) (m : HostMove) (ms : List HostMove), s.busy = false → s.host = m :: ms →
    step s = hostAct { s with host := ms } m.action) ∧
  (∀ s : State, s.busy = false → s.host = [] → step s = .next s)

/-- 10_state.md R56: a write to `CMD` is accepted exactly while `BUSY = 0` and `ERR = 0`, and else is dropped; `CMD`
reads 0; after an acceptance the engine, when the host waits, executes the word (30_encoding.md R160). -/
def Obligations.CmdWriteIsAcceptedOrDropped : Prop :=
  (∀ (s : State) (m : HostMove) (ms : List HostMove) (off w : Word), s.host = m :: ms → m.action = .write off w →
    off.toNat / 4 = 3 → (s.busy = true → m.whileBusy = true) →
    (s.busy = true ∨ s.err = true → step s = .next { s with host := ms, drop := true }) ∧
    (s.busy = false → s.err = false →
      step s = .next { s with host := ms, cmdlatch := w, done := false, busy := true } ∧
      ((∀ m' ms', ms = m' :: ms' → landsWhileBusy m' = false) →
        (∀ i, decode w = .ok i → step { s with host := ms, cmdlatch := w, done := false, busy := true }
          = exec i { s with host := ms, cmdlatch := w, done := false, busy := true }) ∧
        (∀ e, decode w = .error e → step { s with host := ms, cmdlatch := w, done := false, busy := true }
          = .next (errorEnd { s with host := ms, cmdlatch := w, done := false, busy := true } .illegalCommand
              s.bitpos.toNat))))) ∧
  (∀ s : State, readReg s 3 = 0)

/-- 20_memory.md R123, 10_state.md R55, R71: while a command runs, a write to anything but `CTRL`, `STATUS` and `CMD` is dropped
and sets `DROP`; a write to `STATUS` is accepted: its bit 3 clears `DROP`, and it does nothing else; a read of `ID` or `STATUS` returns it, and a read of anything else returns a value that nothing is known
of (log 4). -/
def Obligations.BusAccessWhileBusy : Prop :=
  ∀ (s : State) (m : HostMove) (ms : List HostMove) (off : Word), s.host = m :: ms → s.busy = true → m.whileBusy = true →
    (∀ v, m.action = .write off v → off.toNat / 4 ≠ 1 → off.toNat / 4 ≠ 2 → off.toNat / 4 ≠ 3 →
      step s = .next { s with host := ms, drop := true }) ∧
    (∀ v, m.action = .write off v → off.toNat / 4 = 2 →
      step s = .next { s with host := ms, drop := s.drop && !v.getLsbD 3 }) ∧
    (m.action = .read off → off.toNat / 4 = 0 → step s = .next { s with host := ms, hostData := 0x50594301 }) ∧
    (m.action = .read off → off.toNat / 4 = 2 → ∃ v : Word,
      step s = .next { s with host := ms, hostData := v } ∧ v.getLsbD 0 = true ∧ v.getLsbD 1 = s.done ∧
      v.getLsbD 2 = s.err ∧ v.getLsbD 3 = s.drop ∧ v.extractLsb' 4 4 = 0 ∧
      v.extractLsb' 8 4 = codeOf s.errcode ∧ v.extractLsb' 12 20 = 0) ∧
    (m.action = .read off → off.toNat / 4 ≠ 0 → off.toNat / 4 ≠ 2 →
      step s = .next { s with host := ms, hostData := Config.busyRead s.draws, draws := s.draws + 1 })

/-- 10_state.md R54, 60_exceptions.md R575, 70_reset_and_hazards.md R611: a write to `CTRL` with bit 0 set is the soft reset,
even while a command runs and whatever bit 1 is; with bit 1 alone it clears the error; else it does nothing. `CTRL`
reads 0. -/
def Obligations.CtrlWriteResetsOrClearsError : Prop :=
  (∀ (s : State) (m : HostMove) (ms : List HostMove) (off v : Word), s.host = m :: ms → m.action = .write off v →
    off.toNat / 4 = 1 → (s.busy = true → m.whileBusy = true) →
    (v.getLsbD 0 = true → ∃ t, step s = .next t ∧
      t.busy = false ∧ t.done = false ∧ t.err = false ∧ t.drop = false ∧ t.errcode = .none ∧ t.cmdlatch = 0 ∧
      (∀ i, i ≠ 0 → readReg t i = 0) ∧ readReg t 0 = 0x50594301 ∧
      (∀ k c, cellRead t.ncg k = some c → c.valid = false) ∧ (∀ k c, cellRead t.mvg k = some c → c.valid = false) ∧
      t.cb = s.cb ∧ t.pred = s.pred ∧ t.src = s.src ∧ t.bsb = s.bsb ∧ t.recFrame = s.recFrame ∧
      t.refFrame = s.refFrame ∧ t.params = s.params ∧ t.host = ms ∧ t.hostData = s.hostData ∧ t.draws = s.draws) ∧
    (v.getLsbD 0 = false → v.getLsbD 1 = true →
      step s = .next { s with host := ms, err := false, errcode := .none }) ∧
    (v.getLsbD 0 = false → v.getLsbD 1 = false → step s = .next { s with host := ms })) ∧
  (∀ s : State, readReg s 1 = 0)

/-- 10_state.md R55, R59 .. R71: an idle host write to a register. A writable register keeps its defined fields, with the
clamp of `BITPOS` and `BITLEN`; `STATUS` bit 3 clears `DROP`; every other register ignores the write. -/
def Obligations.RegisterWriteStoresDefinedFields : Prop :=
  ∀ (s : State) (m : HostMove) (ms : List HostMove) (off v : Word), s.host = m :: ms → m.action = .write off v →
    s.busy = false →
    (6 ≤ off.toNat / 4 → off.toNat / 4 ≤ 14 → ∃ t, step s = .next t ∧
      registerStored { s with host := ms } t (off.toNat / 4) v ∧ t.busy = false ∧ t.done = s.done) ∧
    (off.toNat / 4 = 2 → step s = .next { s with host := ms, drop := s.drop && !v.getLsbD 3 }) ∧
    (off.toNat / 4 < 64 → ¬(6 ≤ off.toNat / 4 ∧ off.toNat / 4 ≤ 14) → off.toNat / 4 ≠ 1 → off.toNat / 4 ≠ 2 →
      off.toNat / 4 ≠ 3 → step s = .next { s with host := ms })

/-- 20_memory.md R122 .. R125, 10_state.md R72 .. R76: an idle host write to a memory window. A `CB` element is one word; a
sample word is four bytes, little-endian; a stream word is four bytes of eight bits, the most significant bit of a byte
first, and only the bytes below `BSB_BYTES` change; an unmapped write changes nothing. And 70_reset_and_hazards.md R617,
10_state.md R79, R80: the host stores a sample of `REF` or `REC` in its own memory while `BUSY = 0`, and nothing else changes
(where a sample is kept is the model's choice, log 6); while a command runs the store waits for it (log 12). -/
def Obligations.MemoryWindowWrite : Prop :=
  (∀ (s : State) (m : HostMove) (ms : List HostMove) (off v : Word), s.host = m :: ms → m.action = .write off v →
    s.busy = false →
    (0x1000 ≤ off.toNat → off.toNat < 0x1800 → ∃ t, step s = .next t ∧
      cellRead t.cb ((off.toNat - 0x1000) / 4) = some v ∧
      (∀ k, k ≠ (off.toNat - 0x1000) / 4 → cellRead t.cb k = cellRead s.cb k) ∧
      { t with cb := s.cb, host := s.host } = s ∧ t.host = ms) ∧
    (0x2000 ≤ off.toNat → off.toNat < 0x2100 → ∃ t, step s = .next t ∧
      (∀ j < 4, cellRead t.pred ((off.toNat - 0x2000) / 4 * 4 + j) = some (v.extractLsb' (8 * j) 8)) ∧
      (∀ k, k / 4 ≠ (off.toNat - 0x2000) / 4 → cellRead t.pred k = cellRead s.pred k) ∧
      { t with pred := s.pred, host := s.host } = s ∧ t.host = ms) ∧
    (0x2100 ≤ off.toNat → off.toNat < 0x2200 → ∃ t, step s = .next t ∧
      (∀ j < 4, cellRead t.src ((off.toNat - 0x2100) / 4 * 4 + j) = some (v.extractLsb' (8 * j) 8)) ∧
      (∀ k, k / 4 ≠ (off.toNat - 0x2100) / 4 → cellRead t.src k = cellRead s.src k) ∧
      { t with src := s.src, host := s.host } = s ∧ t.host = ms) ∧
    (0x10000 ≤ off.toNat → off.toNat / 4 * 4 < 0x10000 + s.params.bsbBytes → ∃ t, step s = .next t ∧
      (∀ j < 4, (off.toNat - 0x10000) / 4 * 4 + j < s.params.bsbBytes → ∀ b < 8,
        cellRead t.bsb (8 * ((off.toNat - 0x10000) / 4 * 4 + j) + b) = some (v.getLsbD (8 * j + 7 - b))) ∧
      (∀ k, k / 32 ≠ (off.toNat - 0x10000) / 4 ∨ 8 * s.params.bsbBytes ≤ k → cellRead t.bsb k = cellRead s.bsb k) ∧
      { t with bsb := s.bsb, host := s.host } = s ∧ t.host = ms) ∧
    ((0x100 ≤ off.toNat ∧ off.toNat < 0x1000) ∨ (0x1800 ≤ off.toNat ∧ off.toNat < 0x2000) ∨
      (0x2200 ≤ off.toNat ∧ off.toNat < 0x10000) ∨ 0x10000 + s.params.bsbBytes ≤ off.toNat / 4 * 4 →
      step s = .next { s with host := ms })) ∧
  (∀ (s : State) (m : HostMove) (ms : List HostMove) (y x : BitVec 12) (v : Byte), s.host = m :: ms → s.busy = false →
    (m.action = .supplyRef y x v → ∃ t, step s = .next t ∧ cellRead t.refFrame (4096 * y.toNat + x.toNat) = some v ∧
      (∀ k, k ≠ 4096 * y.toNat + x.toNat → cellRead t.refFrame k = cellRead s.refFrame k) ∧
      { t with refFrame := s.refFrame, host := s.host } = s ∧ t.host = ms) ∧
    (m.action = .supplyRec y x v → ∃ t, step s = .next t ∧ cellRead t.recFrame (4096 * y.toNat + x.toNat) = some v ∧
      (∀ k, k ≠ 4096 * y.toNat + x.toNat → cellRead t.recFrame k = cellRead s.recFrame k) ∧
      { t with recFrame := s.recFrame, host := s.host } = s ∧ t.host = ms)) ∧
  (∀ (s : State) (m : HostMove) (ms : List HostMove) (y x : BitVec 12) (v : Byte) (i : Instr), s.host = m :: ms →
    m.action = .supplyRef y x v ∨ m.action = .supplyRec y x v → s.busy = true → decode s.cmdlatch = .ok i → step s = exec i s)

/-- 20_memory.md R122, R123, 10_state.md R52, R53, R55, R57 .. R70: an idle host read returns the register, each from its own
fields, the element, the four bytes, or 0 where nothing is mapped, and changes nothing else; a read of storage that nothing
has written faults (log 5). `SETRH` and the other statements see a register through the same reading. -/
def Obligations.IdleReadReturnsTheWord : Prop :=
  ∀ (s : State) (m : HostMove) (ms : List HostMove) (off : Word), s.host = m :: ms → m.action = .read off →
    s.busy = false →
    (off.toNat / 4 < 64 → step s = .next { s with host := ms, hostData := s.registerShown (off.toNat / 4) } ∧
      readReg s (off.toNat / 4) = s.registerShown (off.toNat / 4)) ∧
    (0x1000 ≤ off.toNat → off.toNat < 0x1800 →
      (∀ v, cellRead s.cb ((off.toNat - 0x1000) / 4) = some v → step s = .next { s with host := ms, hostData := v }) ∧
      (cellRead s.cb ((off.toNat - 0x1000) / 4) = none → step s = .fault .undefinedRead)) ∧
    (0x2000 ≤ off.toNat → off.toNat < 0x2100 → ∀ b : Fin 4 → Byte,
      (∀ j : Fin 4, cellRead s.pred ((off.toNat - 0x2000) / 4 * 4 + j.val) = some (b j)) →
      step s = .next { s with host := ms, hostData := b 3 ++ b 2 ++ b 1 ++ b 0 }) ∧
    (0x2100 ≤ off.toNat → off.toNat < 0x2200 → ∀ b : Fin 4 → Byte,
      (∀ j : Fin 4, cellRead s.src ((off.toNat - 0x2100) / 4 * 4 + j.val) = some (b j)) →
      step s = .next { s with host := ms, hostData := b 3 ++ b 2 ++ b 1 ++ b 0 }) ∧
    (0x10000 ≤ off.toNat → off.toNat / 4 * 4 + 3 < 0x10000 + s.params.bsbBytes → ∀ b : Fin 4 → Byte,
      (∀ j : Fin 4, ∀ n < 8, cellRead s.bsb (8 * ((off.toNat - 0x10000) / 4 * 4 + j.val) + n) = some ((b j).getLsbD (7 - n))) →
      step s = .next { s with host := ms, hostData := b 3 ++ b 2 ++ b 1 ++ b 0 }) ∧
    (0x2000 ≤ off.toNat → off.toNat < 0x2100 →
      (∃ j < 4, cellRead s.pred ((off.toNat - 0x2000) / 4 * 4 + j) = none) → step s = .fault .undefinedRead) ∧
    (0x2100 ≤ off.toNat → off.toNat < 0x2200 →
      (∃ j < 4, cellRead s.src ((off.toNat - 0x2100) / 4 * 4 + j) = none) → step s = .fault .undefinedRead) ∧
    (0x10000 ≤ off.toNat → off.toNat / 4 * 4 + 3 < 0x10000 + s.params.bsbBytes →
      (∃ j < 32, cellRead s.bsb (8 * ((off.toNat - 0x10000) / 4 * 4) + j) = none) → step s = .fault .undefinedRead) ∧
    ((0x100 ≤ off.toNat ∧ off.toNat < 0x1000) ∨ (0x1800 ≤ off.toNat ∧ off.toNat < 0x2000) ∨
      (0x2200 ≤ off.toNat ∧ off.toNat < 0x10000) ∨ 0x10000 + s.params.bsbBytes ≤ off.toNat / 4 * 4 →
      step s = .next { s with host := ms, hostData := 0 })

/-- 10_state.md R85, 70_reset_and_hazards.md R610: after power-on every register reads 0 but `ID`, no command is pending, no
grid cell is valid, and nothing has been written to `CB`, `PRED`, `SRC` and `BSB`. -/
def Obligations.PowerOnState : Prop :=
  readReg State.reset 0 = 0x50594301 ∧ (∀ i, i ≠ 0 → readReg State.reset i = 0) ∧ State.reset.cmdlatch = 0 ∧
  State.reset.busy = false ∧ State.reset.done = false ∧ State.reset.err = false ∧ State.reset.drop = false ∧
  State.reset.errcode = .none ∧
  (∀ k c, cellRead State.reset.ncg k = some c → c.valid = false) ∧
  (∀ k c, cellRead State.reset.mvg k = some c → c.valid = false) ∧
  (∀ k, cellRead State.reset.cb k = none) ∧ (∀ k, cellRead State.reset.pred k = none) ∧
  (∀ k, cellRead State.reset.src k = none) ∧ (∀ k, cellRead State.reset.bsb k = none)

/-! Every command. -/

/-- 60_exceptions.md R566: a command that does not fault ends in one of two ways. It completes: `BUSY` is 0 and `DONE` is 1,
and the error registers keep their values. Or it ends in an error: nothing changes but `ERR`, `ERRCODE`, `ERRCMD`,
`ERRPOS`, `BUSY` and `DONE`. No command is refused, and the one fault is `UndefinedRead`. -/
def Obligations.EveryCommandCompletesOrEndsInError : Prop :=
  ∀ (i : Instr) (s : State),
    (∀ t, exec i s = .next t →
      (t.busy = false ∧ t.done = true ∧ t.err = s.err ∧ t.errcode = s.errcode ∧ t.errcmd = s.errcmd ∧
        t.errpos = s.errpos) ∨
      (∃ e info, e ≠ ErrCode.none ∧ t = { s with err := true, errcode := e, errcmd := s.cmdlatch, errpos := info,
                                                  busy := false, done := false })) ∧
    (∀ r, exec i s ≠ .refused r)

/-- 60_exceptions.md R560 .. R565, R568, R569: which commands raise which error. `IllegalCommand` is raised by exactly the
commands whose fields break the constraints, before anything else (R570), and then at `BITPOS`; no command raises
`UnsupportedFeature`; `InvalidFieldValue` is raised only by the commands of the table of R564. -/
def Obligations.ErrorsAreRaisedByTheirCommands : Prop :=
  ∀ (i : Instr) (s : State),
    (i.wellFormed = false → exec i s = .next (errorEnd s .illegalCommand s.bitpos.toNat)) ∧
    (∀ info, exec i s = .next (errorEnd s .illegalCommand info) → i.wellFormed = false) ∧
    (∀ info, exec i s ≠ .next (errorEnd s .unsupportedFeature info)) ∧
    (∀ info, exec i s = .next (errorEnd s .bitstreamExhausted info) → i.mayExhaust = true) ∧
    (∀ info, exec i s = .next (errorEnd s .malformedVlcCode info) → i.mayMalform = true) ∧
    (∀ info, exec i s = .next (errorEnd s .invalidFieldValue info) → i.mayInvalidate = true) ∧
    (∀ info, exec i s = .next (errorEnd s .contextNotWritten info) → i.readsContext = true) ∧
    (∀ info, exec i s = .next (errorEnd s .arithOverflow info) → i.mayOverflow = true)

/-- 10_state.md R59 .. R80, R84: the frame of every command. Each piece of state is written only by the commands whose rules
name it; `SRC`, `REF`, `DROP` and the parameters are written by none, and `OPR`, `SLICEQP`, `PICDIM`, `MBPOS` and `NCREG` by
`SETR` and `SETRH` alone. That `CMDLATCH` too keeps its word when a command ends is no rule of the spec but the model's
choice (log 11, DEDUCED). -/
def Obligations.CommandsWriteOnlyTheirState : Prop :=
  ∀ (i : Instr) (s t : State), exec i s = .next t →
    t.params = s.params ∧ t.drop = s.drop ∧ t.cmdlatch = s.cmdlatch ∧ t.src = s.src ∧ t.refFrame = s.refFrame ∧
    t.host = s.host ∧ t.hostData = s.hostData ∧ t.draws = s.draws ∧
    (i.setsRegister = false → t.opr = s.opr ∧ t.sliceqp = s.sliceqp ∧ t.picdim = s.picdim ∧ t.mbpos = s.mbpos ∧
      t.ncreg = s.ncreg) ∧
    (i.setsRegister = false → i ≠ .qpdelta → t.qp = s.qp) ∧
    (i.writesRes = false → t.res = s.res) ∧
    (i.writesBitpos = false → t.bitpos = s.bitpos) ∧
    (i.setsRegister = false → i.writesStream = false → t.bitlen = s.bitlen) ∧
    (i.writesStream = false → t.bsb = s.bsb) ∧
    (i.writesCvstat = false → t.cvstat = s.cvstat) ∧
    (i ≠ .ipsel → t.sae = s.sae) ∧
    (i.writesCb = false → t.cb = s.cb) ∧
    (i.writesPred = false → t.pred = s.pred) ∧
    (i.writesNcg = false → t.ncg = s.ncg) ∧
    (i.writesMvg = false → t.mvg = s.mvg) ∧
    (i.writesRec = false → t.recFrame = s.recFrame)

/-- 60_exceptions.md R571: the configuration checks. `QP > 51` raises `InvalidFieldValue` at `BITPOS` in the five commands that
read `QP`, and `SLICEQP > 51` in `QPDELTA`; an illegal `PICDIM`, or an `MBPOS` outside the picture, raises it in every command
that uses the macroblock position or a grid. The fields of the command are legal (R570: `IllegalCommand` comes first). A
register write checks nothing: the illegal value is held. -/
def Obligations.ConfigurationChecks : Prop :=
  (∀ (s : State) (i : Instr), i.wellFormed = true →
    (51 < s.qp.toNat → i.readsQp = true → exec i s = .next (errorEnd s .invalidFieldValue s.bitpos.toNat)) ∧
    (51 < s.sliceqp.toNat → i = .qpdelta → exec i s = .next (errorEnd s .invalidFieldValue s.bitpos.toNat)) ∧
    (¬s.inPicture → i.usesPicture = true → exec i s = .next (errorEnd s .invalidFieldValue s.bitpos.toNat))) ∧
  (∀ (s : State) (imm : BitVec 16),
    (∃ t, exec (.setr 8 imm) s = .next t ∧ t.done = true ∧ t.qp = imm.setWidth 6) ∧
    (∃ t, exec (.setr 9 imm) s = .next t ∧ t.done = true ∧ t.sliceqp = imm.setWidth 6) ∧
    (∃ t, exec (.setr 12 imm) s = .next t ∧ t.done = true ∧ t.picdim = imm) ∧
    (∃ t, exec (.setr 13 imm) s = .next t ∧ t.done = true ∧ t.mbpos = imm)) ∧
  (∀ (s : State) (v : Word), s.busy = false →
    (∃ t, step { s with host := [⟨false, .write 0x20 v⟩] } = .next t ∧ t.qp = v.setWidth 6) ∧
    (∃ t, step { s with host := [⟨false, .write 0x24 v⟩] } = .next t ∧ t.sliceqp = v.setWidth 6) ∧
    (∃ t, step { s with host := [⟨false, .write 0x30 v⟩] } = .next t ∧ t.picdim = v.setWidth 16) ∧
    (∃ t, step { s with host := [⟨false, .write 0x34 v⟩] } = .next t ∧ t.mbpos = v.setWidth 16))

/-! Invariants of every step. -/

/-- Every step keeps the canonical form of every memory (10_state.md R72 .. R80). -/
def Obligations.StepKeepsMemoryForm : Prop :=
  ∀ s t : State, Memory.wf s → step s = .next t → Memory.wf t

/-- 10_state.md R64, R65: "position never exceeds buffer length". Every step keeps `BITPOS` and `BITLEN` within the buffer,
and the parameters as they are. -/
def Obligations.StepKeepsCursorInBuffer : Prop :=
  ∀ s t : State, s.params.wf = true → s.cursorInBuffer → step s = .next t → t.params = s.params ∧ t.cursorInBuffer

/-- 10_state.md R55: every step keeps the flags of `STATUS` in agreement. -/
def Obligations.StepKeepsFlagsInAgreement : Prop :=
  ∀ s t : State, s.flagsAgree → step s = .next t → t.flagsAgree

/-- 10_state.md R72 .. R77: every step keeps every entry of `CB`, `PRED`, `SRC` and `BSB` inside its memory, and every
TotalCoeff of the nC grid within 0 .. 16. -/
def Obligations.StepKeepsEntriesInRange : Prop :=
  ∀ s t : State, s.params.wf = true → s.cursorInBuffer → s.entriesInRange → s.contextInRange → step s = .next t →
    t.entriesInRange ∧ t.contextInRange

/-- 10_state.md R83: nothing that has been written becomes unwritten, not even by a soft reset. -/
def Obligations.StepKeepsWrittenness : Prop :=
  ∀ s t : State, step s = .next t →
    staysWritten s.cb t.cb ∧ staysWritten s.pred t.pred ∧ staysWritten s.src t.src ∧ staysWritten s.bsb t.bsb ∧
    staysWritten s.recFrame t.recFrame ∧ staysWritten s.refFrame t.refFrame

/-- The state after power-on meets every invariant (10_state.md R85; the parameters are log 1's). -/
def Obligations.PowerOnMeetsTheInvariants : Prop :=
  Memory.wf State.reset ∧ State.reset.params.wf = true ∧ State.reset.cursorInBuffer ∧ State.reset.flagsAgree ∧
  State.reset.entriesInRange ∧ State.reset.contextInRange

/-! Control and moves. -/

/-- 45_control.md R510, R513: `NOP` completes at once and changes nothing else; `GRIDCLR` clears every valid bit of both
grids, and changes nothing else. -/
def Obligations.NopAndGridclrComplete : Prop :=
  ∀ s : State,
    exec .nop s = .next { s with busy := false, done := true } ∧
    ∃ t, exec .gridclr s = .next t ∧
      (∀ k c, cellRead t.ncg k = some c → c.valid = false) ∧ (∀ k c, cellRead t.mvg k = some c → c.valid = false) ∧
      t.busy = false ∧ t.done = true ∧
      { t with ncg := s.ncg, mvg := s.mvg, busy := s.busy, done := s.done } = s

/-- 45_control.md R511, R512: `SETR` and `SETRH` write one register, and raise `IllegalCommand` for a register that is not
writable. -/
def Obligations.SetrAndSetrhWriteOneRegister : Prop :=
  ∀ (s : State) (rsel : BitVec 6) (imm : BitVec 16),
    (6 ≤ rsel.toNat → rsel.toNat ≤ 14 →
      (∃ t, exec (.setr rsel imm) s = .next t ∧ registerStored s t rsel.toNat (imm.signExtend 32) ∧
        t.busy = false ∧ t.done = true) ∧
      (∃ t, exec (.setrh rsel imm) s = .next t ∧
        registerStored s t rsel.toNat (imm ++ (readReg s rsel.toNat).extractLsb' 0 16) ∧
        t.busy = false ∧ t.done = true)) ∧
    (¬(6 ≤ rsel.toNat ∧ rsel.toNat ≤ 14) →
      exec (.setr rsel imm) s = .next (errorEnd s .illegalCommand s.bitpos.toNat) ∧
      exec (.setrh rsel imm) s = .next (errorEnd s .illegalCommand s.bitpos.toNat))

/-- 45_control.md R514: `QPDELTA` leaves in `QP` the one value of 0 .. 51 that is `SLICEQP + OPR` modulo 52, for every signed
`OPR`; `SLICEQP > 51` raises `InvalidFieldValue`. -/
def Obligations.QpdeltaWrapsModulo52 : Prop :=
  ∀ s : State,
    (s.sliceqp.toNat ≤ 51 → ∃ t, exec .qpdelta s = .next t ∧
      t.qp.toNat < 52 ∧ (52 : Int) ∣ ((t.qp.toNat : Int) - ((s.sliceqp.toNat : Int) + s.opr.toInt)) ∧
      t.busy = false ∧ t.done = true ∧ { t with qp := s.qp, busy := s.busy, done := s.done } = s) ∧
    (51 < s.sliceqp.toNat → exec .qpdelta s = .next (errorEnd s .invalidFieldValue s.bitpos.toNat))

/-- 45_control.md R515, R516: `EMOV` copies one element and leaves every other element of `CB` as it was, and faults when
nothing has written its source; `ZERO` clears a slot, written or not. -/
def Obligations.EmovAndZeroWriteTheirElements : Prop :=
  ∀ (s : State) (d src : Slot) (dr dc sr sc : Two),
    (∀ v, cellRead s.cb (16 * src.toNat + 4 * sr.toNat + sc.toNat) = some v →
      ∃ t, exec (.emov d src dr dc sr sc) s = .next t ∧
        cellRead t.cb (16 * d.toNat + 4 * dr.toNat + dc.toNat) = some v ∧
        (∀ k, k ≠ 16 * d.toNat + 4 * dr.toNat + dc.toNat → cellRead t.cb k = cellRead s.cb k) ∧
        t.busy = false ∧ t.done = true ∧ { t with cb := s.cb, busy := s.busy, done := s.done } = s) ∧
    (cellRead s.cb (16 * src.toNat + 4 * sr.toNat + sc.toNat) = none →
      exec (.emov d src dr dc sr sc) s = .fault .undefinedRead) ∧
    (∃ t, exec (.zero d) s = .next t ∧ slotStored s t d (Matrix.of fun _ _ => 0))

/-! Zig-zag. -/

/-- 41_zigzag.md R262: `ZZFWD` puts the scan-order sequence in the destination slot; with `2x2`, the four elements of the
2×2 block and then zeros. The destination may be the source. -/
def Obligations.ZzfwdWritesScanOrder : Prop :=
  ∀ (s : State) (d src : Slot) (X : Matrix4),
    (s.slotIs src X → ∃ t, exec (.zzfwd d src false) s = .next t ∧
      slotStored s t d (Matrix.of fun r c =>
        X (scanOrder.getD (4 * r.val + c.val) (0, 0)).1 (scanOrder.getD (4 * r.val + c.val) (0, 0)).2)) ∧
    (s.elemIs src 0 0 (X 0 0) → s.elemIs src 0 1 (X 0 1) → s.elemIs src 1 0 (X 1 0) → s.elemIs src 1 1 (X 1 1) →
      ∃ t, exec (.zzfwd d src true) s = .next t ∧
        slotStored s t d (Matrix.of fun r c => if r = 0 then ![X 0 0, X 0 1, X 1 0, X 1 1] c else 0)) ∧
    ((∃ r c, s.elemUnwritten src r c) → exec (.zzfwd d src false) s = .fault .undefinedRead) ∧
    ((∃ r c, r.val < 2 ∧ c.val < 2 ∧ s.elemUnwritten src r c) → exec (.zzfwd d src true) s = .fault .undefinedRead)

/-- 41_zigzag.md R263: `ZZINV` puts the k-th element of the sequence at the k-th scan position; with `2x2`, the first four at
the 2×2 block and zeros elsewhere. -/
def Obligations.ZzinvRestoresRasterOrder : Prop :=
  ∀ (s : State) (d src : Slot) (q : Matrix4),
    (s.slotIs src q → ∃ t X, exec (.zzinv d src false) s = .next t ∧ slotStored s t d X ∧
      ∀ r c : Fin 4, X (scanOrder.getD (4 * r.val + c.val) (0, 0)).1 (scanOrder.getD (4 * r.val + c.val) (0, 0)).2 = q r c) ∧
    ((∀ c, s.elemIs src 0 c (q 0 c)) → ∃ t, exec (.zzinv d src true) s = .next t ∧
      slotStored s t d !![q 0 0, q 0 1, 0, 0; q 0 2, q 0 3, 0, 0; 0, 0, 0, 0; 0, 0, 0, 0]) ∧
    ((∃ r c, s.elemUnwritten src r c) → exec (.zzinv d src false) s = .fault .undefinedRead) ∧
    ((∃ c, s.elemUnwritten src 0 c) → exec (.zzinv d src true) s = .fault .undefinedRead)

/-- 41_zigzag.md R265: the zig-zag involution. -/
def Obligations.ZigzagInvolution : Prop :=
  ∀ (s : State) (src mid d : Slot) (M : Matrix4), s.slotIs src M →
    (∃ t u, exec (.zzfwd mid src false) s = .next t ∧ exec (.zzinv d mid false) t = .next u ∧ u.slotIs d M) ∧
    (∃ t u, exec (.zzfwd mid src true) s = .next t ∧ exec (.zzinv d mid true) t = .next u ∧
      u.slotIs d (Matrix.of fun r c => if r.val < 2 ∧ c.val < 2 then M r c else 0))

/-! The bit cursor. -/

/-- 40_bitstream.md R223, R224: `BSRD` and `BSPEEK` put the next `n` bits in `RES`, the first most significant; `BSRD` moves
`BITPOS`, `BSPEEK` does not. A width above 32 is illegal; fewer than `n` bits left is `BitstreamExhausted` at `BITPOS`. -/
def Obligations.FixedWidthRead : Prop :=
  ∀ (s : State) (n : BitVec 6),
    (32 < n.toNat → exec (.bsrd n) s = .next (errorEnd s .illegalCommand s.bitpos.toNat) ∧
      exec (.bspeek n) s = .next (errorEnd s .illegalCommand s.bitpos.toNat)) ∧
    (n.toNat ≤ 32 → s.bitlen.toNat < s.bitpos.toNat + n.toNat →
      exec (.bsrd n) s = .next (errorEnd s .bitstreamExhausted s.bitpos.toNat) ∧
      exec (.bspeek n) s = .next (errorEnd s .bitstreamExhausted s.bitpos.toNat)) ∧
    (n.toNat ≤ 32 → s.bitpos.toNat + n.toNat ≤ s.bitlen.toNat → ∀ code : List Bool, code.length = n.toNat →
      s.streamHolds s.bitpos.toNat code →
      ∃ v : Word, (∀ i (h : i < code.length), v.getLsbD (n.toNat - 1 - i) = code[i]) ∧
        (∀ i, n.toNat ≤ i → v.getLsbD i = false) ∧
        exec (.bsrd n) s = .next { s with res := v, bitpos := s.bitpos + n.setWidth 32, busy := false, done := true } ∧
        exec (.bspeek n) s = .next { s with res := v, busy := false, done := true }) ∧
    (n.toNat ≤ 32 → s.bitpos.toNat + n.toNat ≤ s.bitlen.toNat →
      (∃ i < n.toNat, cellRead s.bsb (s.bitpos.toNat + i) = none) →
      exec (.bsrd n) s = .fault .undefinedRead ∧ exec (.bspeek n) s = .fault .undefinedRead)

/-- 40_bitstream.md R225, R226, R234: on a codeword of `L <= 31` zeros, a 1 and an `L`-bit suffix `x` that lies before
`BITLEN`, `BSRDUE` reads `k = 2^L - 1 + x`, `BSRDSE` its signed value, and `BSRDME` its `coded_block_pattern`, or raises
`InvalidFieldValue` when `k > 47`; `BITPOS` moves past the `2L + 1` bits. -/
def Obligations.ExpGolombReadValue : Prop :=
  ∀ (s : State) (L x : Nat) (intra : Bool), L ≤ 31 → x < 2 ^ L → s.streamHolds s.bitpos.toNat (expGolomb L x) →
    s.bitpos.toNat + (2 * L + 1) ≤ s.bitlen.toNat →
    (∃ t, exec .bsrdue s = .next t ∧ t.res.toNat = 2 ^ L - 1 + x ∧ t.bitpos.toNat = s.bitpos.toNat + (2 * L + 1) ∧
      t.busy = false ∧ t.done = true ∧
      { t with res := s.res, bitpos := s.bitpos, busy := s.busy, done := s.done } = s) ∧
    (∃ t, exec .bsrdse s = .next t ∧ t.res.toInt = signedOf (2 ^ L - 1 + x) ∧
      t.bitpos.toNat = s.bitpos.toNat + (2 * L + 1) ∧ t.busy = false ∧ t.done = true ∧
      { t with res := s.res, bitpos := s.bitpos, busy := s.busy, done := s.done } = s) ∧
    (2 ^ L - 1 + x ≤ 47 → ∃ t, exec (.bsrdme intra) s = .next t ∧
      (patternOf intra)[2 ^ L - 1 + x]? = some t.res.toNat ∧ t.bitpos.toNat = s.bitpos.toNat + (2 * L + 1) ∧
      t.busy = false ∧ t.done = true ∧
      { t with res := s.res, bitpos := s.bitpos, busy := s.busy, done := s.done } = s) ∧
    (47 < 2 ^ L - 1 + x → exec (.bsrdme intra) s = .next (errorEnd s .invalidFieldValue s.bitpos.toNat))

/-- 40_bitstream.md R221, R225, 60_exceptions.md R561, R562, R567: the errors of the three Exp-Golomb reads, each at the
codeword's first bit: the stream ends before the 1, or inside the suffix (`BitstreamExhausted`); 32 zeros come before any 1
(`MalformedVlcCode`). And 10_state.md R83, 60_exceptions.md R574: they fault on a bit before `BITLEN` that nothing has written, in
the place of the 1 or inside the suffix. -/
def Obligations.ExpGolombReadErrors : Prop :=
  ∀ (s : State) (i : Instr), i = .bsrdue ∨ i = .bsrdse ∨ (∃ intra, i = .bsrdme intra) →
    (∀ L ≤ 31, s.streamHolds s.bitpos.toNat (List.replicate L false) →
      s.bitlen.toNat = s.bitpos.toNat + L ∨ (L = 0 ∧ s.bitlen.toNat ≤ s.bitpos.toNat) →
      exec i s = .next (errorEnd s .bitstreamExhausted s.bitpos.toNat)) ∧
    (∀ L ≤ 31, s.streamHolds s.bitpos.toNat (List.replicate L false ++ [true]) →
      s.bitpos.toNat + L + 1 ≤ s.bitlen.toNat → s.bitlen.toNat < s.bitpos.toNat + (2 * L + 1) →
      exec i s = .next (errorEnd s .bitstreamExhausted s.bitpos.toNat)) ∧
    (s.streamHolds s.bitpos.toNat (List.replicate 32 false) → s.bitpos.toNat + 32 ≤ s.bitlen.toNat →
      exec i s = .next (errorEnd s .malformedVlcCode s.bitpos.toNat)) ∧
    (∀ L ≤ 31, s.streamHolds s.bitpos.toNat (List.replicate L false) → s.bitpos.toNat + L < s.bitlen.toNat →
      cellRead s.bsb (s.bitpos.toNat + L) = none → exec i s = .fault .undefinedRead) ∧
    (∀ L ≤ 31, s.streamHolds s.bitpos.toNat (List.replicate L false ++ [true]) →
      s.bitpos.toNat + (2 * L + 1) ≤ s.bitlen.toNat → (∃ j < L, cellRead s.bsb (s.bitpos.toNat + (L + 1) + j) = none) →
      exec i s = .fault .undefinedRead)

/-- 40_bitstream.md R227: `BSWR` writes the low `n` bits of `OPR`, most significant first. -/
def Obligations.BswrWritesTheField : Prop :=
  ∀ (s : State) (n : BitVec 6), s.params.wf = true →
    (32 < n.toNat → exec (.bswr n) s = .next (errorEnd s .illegalCommand s.bitpos.toNat)) ∧
    (n.toNat ≤ 32 → 8 * s.params.bsbBytes < s.bitpos.toNat + n.toNat →
      exec (.bswr n) s = .next (errorEnd s .bitstreamExhausted s.bitpos.toNat)) ∧
    (n.toNat ≤ 32 → s.bitpos.toNat + n.toNat ≤ 8 * s.params.bsbBytes → ∃ t, exec (.bswr n) s = .next t ∧
      streamWritten s t ((List.range n.toNat).map (fun i => s.opr.getLsbD (n.toNat - 1 - i))))

/-- 40_bitstream.md R228, R229, R235: the Exp-Golomb writes. With `k` the codeNum of the value in `OPR` (itself; by the signed
mapping; by the pattern table) and `k + 1 = 2^L + x`, the command writes the codeword `(L, x)`, or raises
`BitstreamExhausted` when it does not fit; a value that has no codeNum raises `InvalidFieldValue` first. -/
def Obligations.ExpGolombWrites : Prop :=
  ∀ (s : State) (L x : Nat) (intra : Bool), s.params.wf = true → x < 2 ^ L →
    (s.opr.toNat + 1 = 2 ^ L + x → L ≤ 31 →
      (s.bitpos.toNat + (2 * L + 1) ≤ 8 * s.params.bsbBytes → ∃ t, exec .bswrue s = .next t ∧ streamWritten s t (expGolomb L x)) ∧
      (8 * s.params.bsbBytes < s.bitpos.toNat + (2 * L + 1) →
        exec .bswrue s = .next (errorEnd s .bitstreamExhausted s.bitpos.toNat))) ∧
    (s.opr = 0xFFFFFFFF → exec .bswrue s = .next (errorEnd s .invalidFieldValue s.bitpos.toNat)) ∧
    (s.opr.toInt = signedOf (2 ^ L + x - 1) → L ≤ 31 →
      (s.bitpos.toNat + (2 * L + 1) ≤ 8 * s.params.bsbBytes → ∃ t, exec .bswrse s = .next t ∧ streamWritten s t (expGolomb L x)) ∧
      (8 * s.params.bsbBytes < s.bitpos.toNat + (2 * L + 1) →
        exec .bswrse s = .next (errorEnd s .bitstreamExhausted s.bitpos.toNat))) ∧
    (s.opr = 0x80000000 → exec .bswrse s = .next (errorEnd s .invalidFieldValue s.bitpos.toNat)) ∧
    ((patternOf intra)[2 ^ L + x - 1]? = some s.opr.toNat →
      (s.bitpos.toNat + (2 * L + 1) ≤ 8 * s.params.bsbBytes → ∃ t, exec (.bswrme intra) s = .next t ∧ streamWritten s t (expGolomb L x)) ∧
      (8 * s.params.bsbBytes < s.bitpos.toNat + (2 * L + 1) →
        exec (.bswrme intra) s = .next (errorEnd s .bitstreamExhausted s.bitpos.toNat))) ∧
    (47 < s.opr.toNat → exec (.bswrme intra) s = .next (errorEnd s .invalidFieldValue s.bitpos.toNat))

/-- What a stream write command wrote, the read command of its kind reads back, at the same place (40_bitstream.md R221 ..
R229, R233 .. R235). -/
def Obligations.StreamRoundTrip : Prop :=
  ∀ (s t : State) (n : BitVec 6) (intra : Bool), s.params.wf = true → t.done = true →
    (exec .bswrue s = .next t → ∃ u, exec .bsrdue { t with bitpos := s.bitpos } = .next u ∧ u.done = true ∧
      u.res = s.opr ∧ u.bitpos = t.bitpos) ∧
    (exec .bswrse s = .next t → ∃ u, exec .bsrdse { t with bitpos := s.bitpos } = .next u ∧ u.done = true ∧
      u.res = s.opr ∧ u.bitpos = t.bitpos) ∧
    (exec (.bswrme intra) s = .next t → ∃ u, exec (.bsrdme intra) { t with bitpos := s.bitpos } = .next u ∧
      u.done = true ∧ u.res = s.opr ∧ u.bitpos = t.bitpos) ∧
    (exec (.bswr n) s = .next t → ∃ u, exec (.bsrd n) { t with bitpos := s.bitpos } = .next u ∧ u.done = true ∧
      u.res.toNat = s.opr.toNat % 2 ^ n.toNat ∧ u.bitpos = t.bitpos)

/-- 40_bitstream.md R230, R231: with `a` the bits to the next byte boundary, `BSALIGN skip` moves `BITPOS` by `a`, `BSALIGN fill`
writes `a` zeros, and `BSTRAIL` writes a 1 and the zeros to the boundary after it. -/
def Obligations.AlignmentCommands : Prop :=
  ∀ (s : State) (a : Nat), s.params.wf = true → a < 8 →
    ((s.bitpos.toNat + a) % 8 = 0 →
      (s.bitpos.toNat + a ≤ s.bitlen.toNat → ∃ t, exec (.bsalign false) s = .next t ∧
        t.bitpos.toNat = s.bitpos.toNat + a ∧ t.busy = false ∧ t.done = true ∧
        { t with bitpos := s.bitpos, busy := s.busy, done := s.done } = s) ∧
      (s.bitlen.toNat < s.bitpos.toNat + a →
        exec (.bsalign false) s = .next (errorEnd s .bitstreamExhausted s.bitpos.toNat)) ∧
      (s.cursorInBuffer → ∃ t, exec (.bsalign true) s = .next t ∧ streamWritten s t (List.replicate a false))) ∧
    ((s.bitpos.toNat + 1 + a) % 8 = 0 →
      (s.bitpos.toNat + 1 + a ≤ 8 * s.params.bsbBytes → ∃ t, exec .bstrail s = .next t ∧
        streamWritten s t (true :: List.replicate a false)) ∧
      (8 * s.params.bsbBytes < s.bitpos.toNat + 1 + a →
        exec .bstrail s = .next (errorEnd s .bitstreamExhausted s.bitpos.toNat)))

/-- 40_bitstream.md R232: `BSMORE` answers 1 exactly when at least 17 bits remain. -/
def Obligations.BsmoreNeedsSeventeenBits : Prop :=
  ∀ s : State, ∃ t, exec .bsmore s = .next t ∧
    t.res = (if (17 : Int) ≤ (s.bitlen.toNat : Int) - (s.bitpos.toNat : Int) then 1 else 0) ∧
    t.busy = false ∧ t.done = true ∧ { t with res := s.res, busy := s.busy, done := s.done } = s

/-! CAVLC. -/

/-- 42_cavlc.md R319: the decoder and the encoder use the same tables: a codeword is decoded to `v` if and only if `v` is
encoded to it. And the tables are those that R287 .. R291, R300 .. R302 and R305 print, selected as R285, R299 and R304 say. -/
def Obligations.VlcTablesAreShared : Prop :=
  (∀ t ∈ tokenTables, tableShared t) ∧ (∀ t ∈ numberTables, tableShared t) ∧
  (∀ nC v, vlcCode (ctTable nC) v = tokenWord nC v) ∧
  (∀ mnc tc tz, 1 ≤ tc → tc < (blockOrder mnc).length → vlcCode (tzTable mnc tc) tz = zerosWord mnc tc tz) ∧
  (∀ zl run, 1 ≤ zl → vlcCode (runBefore (min zl 7)) run = runWord zl run)

/-- 42_cavlc.md R311 .. R316, R309: what `CAVLCENC` does for every block whose context is ready. Where the block has a code and
the code fits the buffer, it writes the code at `BITPOS`, reports TotalCoeff, TrailingOnes and the number of bits, and with
`wb` writes TotalCoeff into the block's cell; where the code does not fit, it raises `BitstreamExhausted`; where a level is
unencodable, `InvalidFieldValue`; and it faults on an element of the scan that nothing has written. A block of levels up
to 2063 in magnitude has a code (R313). -/
def Obligations.CavlcencWritesTheBlock : Prop :=
  ∀ (s : State) (slot : Slot) (mnc : Mnc) (plane : Option Plane) (ncsel : Bool) (bx byy : Two) (wb : Bool) (nC : Int),
    s.params.wf = true → s.contextReady mnc plane ncsel bx byy wb nC →
    (∀ coeff : List Int, coeff.length = (blockOrder mnc).length →
      (∀ k (h : k < (blockOrder mnc).length), s.elemIs slot (blockOrder mnc)[k].1 (blockOrder mnc)[k].2 (coeff.getD k 0)) →
      (∀ code, blockCode coeff nC mnc = some code →
        (s.bitpos.toNat + code.length ≤ 8 * s.params.bsbBytes →
          ∃ t, exec (.cavlcenc slot mnc plane ncsel bx byy wb) s = .next t ∧
            t.streamHolds s.bitpos.toNat code ∧
            (∀ k, k < s.bitpos.toNat ∨ s.bitpos.toNat + code.length ≤ k → cellRead t.bsb k = cellRead s.bsb k) ∧
            t.bitpos.toNat = s.bitpos.toNat + code.length ∧
            t.bitlen.toNat = max s.bitlen.toNat (s.bitpos.toNat + code.length) ∧
            t.res.toNat = totalCoeff coeff ∧
            t.cvstat.toNat = code.length * 2 ^ 16 + onesOf coeff * 2 ^ 8 + totalCoeff coeff ∧
            contextWritten s t plane bx byy wb (totalCoeff coeff) ∧ t.busy = false ∧ t.done = true ∧
            { t with bsb := s.bsb, bitpos := s.bitpos, bitlen := s.bitlen, res := s.res, cvstat := s.cvstat, ncg := s.ncg,
                     busy := s.busy, done := s.done } = s) ∧
        (8 * s.params.bsbBytes < s.bitpos.toNat + code.length →
          exec (.cavlcenc slot mnc plane ncsel bx byy wb) s = .next (errorEnd s .bitstreamExhausted s.bitpos.toNat))) ∧
      (blockCode coeff nC mnc = none →
        exec (.cavlcenc slot mnc plane ncsel bx byy wb) s = .next (errorEnd s .invalidFieldValue s.bitpos.toNat)) ∧
      ((∀ c ∈ coeff, c.natAbs ≤ 2063) →
        ∃ code, blockCode coeff nC mnc = some code ∧ 1 ≤ code.length ∧ code.length ≤ 1000)) ∧
    ((∃ rc ∈ blockOrder mnc, s.elemUnwritten slot rc.1 rc.2) →
      exec (.cavlcenc slot mnc plane ncsel bx byy wb) s = .fault .undefinedRead)

/-- 42_cavlc.md R286, R292 .. R310: what `CAVLCDEC` does for every stream where its context is ready. Where the block at `BITPOS`
can be read, it puts the coefficients at the scan positions of the slot, zeros elsewhere, reports TotalCoeff, TrailingOnes
and the number of bits, and with `wb` writes TotalCoeff into the block's cell. Where reading fails, it raises the error of
the first element that fails, at that element's first bit (60_exceptions.md R567): `BitstreamExhausted`, `MalformedVlcCode`, or
`InvalidFieldValue` for a TotalCoeff, total_zeros or run_before too large; and it faults where it meets a bit that nothing has
written. The code of a coefficient list (R315), before `BITLEN`, is read as that list. -/
def Obligations.CavlcdecReadsTheBlock : Prop :=
  ∀ (s : State) (slot : Slot) (mnc : Mnc) (plane : Option Plane) (ncsel : Bool) (bx byy : Two) (wb : Bool) (nC : Int),
    s.contextReady mnc plane ncsel bx byy wb nC →
    (∀ b : BlockRead, s.blockAt nC mnc = .ok b → ∃ t, exec (.cavlcdec slot mnc plane ncsel bx byy wb) s = .next t ∧
      (∀ k (h : k < (blockOrder mnc).length), t.elemIs slot (blockOrder mnc)[k].1 (blockOrder mnc)[k].2 (b.coeffAt k)) ∧
      (∀ r c, (r, c) ∉ blockOrder mnc → t.elemIs slot r c 0) ∧
      (∀ k, k / 16 ≠ slot.toNat → cellRead t.cb k = cellRead s.cb k) ∧
      t.bitpos.toNat = b.stop ∧ t.res.toNat = b.levels.length ∧
      t.cvstat.toNat = (b.stop - s.bitpos.toNat) * 2 ^ 16 + b.ones * 2 ^ 8 + b.levels.length ∧
      contextWritten s t plane bx byy wb b.levels.length ∧ t.busy = false ∧ t.done = true ∧
      { t with cb := s.cb, bitpos := s.bitpos, res := s.res, cvstat := s.cvstat, ncg := s.ncg,
               busy := s.busy, done := s.done } = s) ∧
    (∀ e pos, s.blockAt nC mnc = .error (.raise e pos) →
      exec (.cavlcdec slot mnc plane ncsel bx byy wb) s = .next (errorEnd s e pos)) ∧
    (∀ f, s.blockAt nC mnc = .error (.fault f) → exec (.cavlcdec slot mnc plane ncsel bx byy wb) s = .fault f) ∧
    (∀ (coeff : List Int) (code : List Bool), coeff.length = (blockOrder mnc).length → blockCode coeff nC mnc = some code →
      s.streamHolds s.bitpos.toNat code → s.bitpos.toNat + code.length ≤ s.bitlen.toNat →
      ∃ b, s.blockAt nC mnc = .ok b ∧ (∀ k, b.coeffAt k = coeff.getD k 0) ∧ b.stop = s.bitpos.toNat + code.length ∧
        b.levels.length = totalCoeff coeff ∧ b.ones = onesOf coeff)

/-- 42_cavlc.md R317: the CAVLC round trip. Where `CAVLCENC` completed for a slot with a context `nC`, `CAVLCDEC` with the same
`nC` (from whichever fields) and the same length, from the same start position, reads exactly the bits written, produces the
block on the scan positions with 0 elsewhere, and reports the same TotalCoeff, TrailingOnes and bit count. -/
def Obligations.CavlcRoundTrip : Prop :=
  ∀ (s t : State) (slot d : Slot) (mnc : Mnc) (nC : Int) (plane plane' : Option Plane) (ncsel ncsel' : Bool)
    (bx byy bx' byy' : Two) (wb wb' : Bool),
    s.params.wf = true → s.contextReady mnc plane ncsel bx byy wb nC →
    exec (.cavlcenc slot mnc plane ncsel bx byy wb) s = .next t → t.done = true →
    State.contextReady { t with bitpos := s.bitpos } mnc plane' ncsel' bx' byy' wb' nC →
    ∃ u, exec (.cavlcdec d mnc plane' ncsel' bx' byy' wb') { t with bitpos := s.bitpos } = .next u ∧ u.done = true ∧
      u.bitpos = t.bitpos ∧ u.res = t.res ∧ u.cvstat = t.cvstat ∧
      (∀ r c x, (r, c) ∈ blockOrder mnc → s.elemIs slot r c x → u.elemIs d r c x) ∧
      (∀ r c, (r, c) ∉ blockOrder mnc → u.elemIs d r c 0)

/-- 42_cavlc.md R282, 60_exceptions.md R565: `CAVLCDEC`, `CAVLCENC` and `NCGET`, when they derive nC from the grid, raise
`ContextNotWritten` at `BITPOS` when the left neighbour lies inside the picture and is not valid, or the upper one does;
`NCGET raw` when the block's own cell is not valid. -/
def Obligations.UnwrittenContextIsRejected : Prop :=
  ∀ (s : State) (p : Plane) (bx byy : Two) (i : Instr), blockInPlane p bx byy = true → s.inPicture →
    (s.neighbourMissing p (0 < cellX s p bx.toNat) (cellX s p bx.toNat - 1) (cellY s p byy.toNat) ∨
      s.neighbourMissing p (0 < cellY s p byy.toNat) (cellX s p bx.toNat) (cellY s p byy.toNat - 1) →
      (∀ slot mnc wb, mnc ≠ Mnc.m4 → i = .cavlcdec slot mnc (some p) false bx byy wb ∨
        i = .cavlcenc slot mnc (some p) false bx byy wb → exec i s = .next (errorEnd s .contextNotWritten s.bitpos.toNat)) ∧
      exec (.ncget (some p) bx byy false) s = .next (errorEnd s .contextNotWritten s.bitpos.toNat)) ∧
    (s.neighbourMissing p True (cellX s p bx.toNat) (cellY s p byy.toNat) →
      exec (.ncget (some p) bx byy true) s = .next (errorEnd s .contextNotWritten s.bitpos.toNat))

/-- 42_cavlc.md R321: `NCGET` returns the nC that the grid gives the block, or with `raw` the TotalCoeff of its own cell. -/
def Obligations.NcgetReturnsTheContext : Prop :=
  ∀ (s : State) (p : Plane) (bx byy : Two), blockInPlane p bx byy = true → s.inPicture → s.contextInRange →
    (∀ n, s.gridContextIs p bx byy n → ∃ t, exec (.ncget (some p) bx byy false) s = .next t ∧ t.res.toNat = n ∧ n ≤ 16 ∧
      t.busy = false ∧ t.done = true ∧ { t with res := s.res, busy := s.busy, done := s.done } = s) ∧
    (∀ c, cellRead s.ncg (ncKey p (cellX s p bx.toNat) (cellY s p byy.toNat)) = some c → c.valid = true →
      ∃ t, exec (.ncget (some p) bx byy true) s = .next t ∧ t.res.toNat = c.tc ∧
        t.busy = false ∧ t.done = true ∧ { t with res := s.res, busy := s.busy, done := s.done } = s)

/-- 42_cavlc.md R320: `NCSET` writes `(1, NCREG)` to the cells it names: one block's, all of a plane's in the macroblock, or all
24 of the macroblock; every other cell keeps its value. -/
def Obligations.NcsetWritesTheNamedCells : Prop :=
  ∀ (s : State) (plane : Option Plane) (bx byy : Two) (all : Bool),
    (ncsetFieldsOk plane bx byy all = false →
      exec (.ncset plane bx byy all) s = .next (errorEnd s .illegalCommand s.bitpos.toNat)) ∧
    (ncsetFieldsOk plane bx byy all = true → ¬(s.inPicture ∧ s.ncreg.toNat ≤ 16) →
      exec (.ncset plane bx byy all) s = .next (errorEnd s .invalidFieldValue s.bitpos.toNat)) ∧
    (ncsetFieldsOk plane bx byy all = true → s.inPicture → s.ncreg.toNat ≤ 16 →
      ∃ t, exec (.ncset plane bx byy all) s = .next t ∧
        (∀ p x y, x < planeBlocks p → y < planeBlocks p →
          (plane = none ∨ (plane = some p ∧ (all = true ∨ (x = bx.toNat ∧ y = byy.toNat)))) →
          cellRead t.ncg (ncKey p (cellX s p x) (cellY s p y)) = some ⟨true, s.ncreg.toNat⟩) ∧
        (∀ k, (∀ p x y, x < planeBlocks p → y < planeBlocks p →
          (plane = none ∨ (plane = some p ∧ (all = true ∨ (x = bx.toNat ∧ y = byy.toNat)))) →
          k ≠ ncKey p (cellX s p x) (cellY s p y)) → cellRead t.ncg k = cellRead s.ncg k) ∧
        t.busy = false ∧ t.done = true ∧ { t with ncg := s.ncg, busy := s.busy, done := s.done } = s)

/-! Transforms. -/

/-- 10_state.md R83, 60_exceptions.md R574: a transform command whose checks hold faults when its source slot, or the second
one of `PRES`, has an element that nothing has written. -/
def Obligations.TransformsFaultOnUnwrittenSource : Prop :=
  ∀ (s : State) (d src u : Slot) (f : Bool), (∃ r c, s.elemUnwritten src r c) →
    exec (.fcore d src) s = .fault .undefinedRead ∧ exec (.idct d src) s = .fault .undefinedRead ∧
    (s.qp.toNat ≤ 51 →
      exec (.fquant d src f) s = .fault .undefinedRead ∧ exec (.fhadq d src) s = .fault .undefinedRead ∧
      exec (.iquant d src f) s = .fault .undefinedRead ∧ exec (.ihadq d src) s = .fault .undefinedRead ∧
      exec (.pres d src u) s = .fault .undefinedRead ∧ exec (.pres d u src) s = .fault .undefinedRead)

/-- 43_transform.md R382: `FCORE` stores `Cf · X · Cfᵗ`, or raises `ArithOverflow` and writes nothing. -/
def Obligations.FcoreIsTheCoreTransform : Prop :=
  ∀ (s : State) (d src : Slot) (X : Matrix4), s.slotIs src X →
    ((∀ r c, fitsSlot ((coreOf * X * coreOf.transpose) r c)) →
      ∃ t, exec (.fcore d src) s = .next t ∧ slotStored s t d (coreOf * X * coreOf.transpose)) ∧
    ((∃ r c, ¬fitsSlot ((coreOf * X * coreOf.transpose) r c)) →
      exec (.fcore d src) s = .next (errorEnd s .arithOverflow s.bitpos.toNat))

/-- 43_transform.md R385: `FQUANT` stores the rounded quotients, with element (0,0) forced to 0 by `ac`; it never overflows. -/
def Obligations.FquantRoundsTheScaledBlock : Prop :=
  ∀ (s : State) (d src : Slot) (ac : Bool) (W : Matrix4), s.qp.toNat ≤ 51 → s.slotIs src W →
    ∃ t Z, exec (.fquant d src ac) s = .next t ∧ slotStored s t d Z ∧
      (ac = true → Z 0 0 = 0) ∧
      ∀ r c, ¬(ac = true ∧ r = 0 ∧ c = 0) →
        roundsTo s.params.fwdRound (W r c * forwardFactor s.qp.toNat (classOf r c)) (15 + s.qp.toNat / 6) (Z r c)

/-- 43_transform.md R387: `FHADQ` stores the rounded quotients of `H · WD · H`, with a total shift of `qbits + 2`. -/
def Obligations.FhadqQuantizesTheHadamardTransform : Prop :=
  ∀ (s : State) (d src : Slot) (WD Z : Matrix4), s.qp.toNat ≤ 51 → s.slotIs src WD →
    (∀ r c, roundsTo s.params.fwdRound ((hadamardOf * WD * hadamardOf) r c * forwardFactor s.qp.toNat 0)
      (15 + s.qp.toNat / 6 + 2) (Z r c)) →
    ((∀ r c, fitsSlot (Z r c)) → ∃ t, exec (.fhadq d src) s = .next t ∧ slotStored s t d Z) ∧
    ((∃ r c, ¬fitsSlot (Z r c)) → exec (.fhadq d src) s = .next (errorEnd s .arithOverflow s.bitpos.toNat))

/-- 43_transform.md R389: `IQUANT` scales every element by `V(QP) · 2^(QP/6)`; `dc` keeps element (0,0). -/
def Obligations.IquantScalesTheBlock : Prop :=
  ∀ (s : State) (d src : Slot) (dc : Bool) (Z D : Matrix4), s.qp.toNat ≤ 51 → s.slotIs src Z →
    (∀ r c, D r c = if dc = true ∧ r = 0 ∧ c = 0 then Z 0 0
      else Z r c * inverseFactor s.qp.toNat (classOf r c) * 2 ^ (s.qp.toNat / 6)) →
    ((∀ r c, fitsSlot (D r c)) → ∃ t, exec (.iquant d src dc) s = .next t ∧ slotStored s t d D) ∧
    ((∃ r c, ¬fitsSlot (D r c)) → exec (.iquant d src dc) s = .next (errorEnd s .arithOverflow s.bitpos.toNat))

/-- 43_transform.md R390, R391: `IDCT` stores the butterfly of the slot with the final rounding; for 32-bit elements no result
leaves 32 bits, so it always completes. -/
def Obligations.IdctIsTheInverseTransform : Prop :=
  ∀ (s : State) (d src : Slot) (D : Matrix4), s.slotIs src D →
    ∃ t, exec (.idct d src) s = .next t ∧ slotStored s t d (inverseOf D)

/-- 43_transform.md R393: `IHADQ` scales `H · c · H`, with a left shift from `QP = 12` on and a rounding right shift below. -/
def Obligations.IhadqScalesTheHadamardTransform : Prop :=
  ∀ (s : State) (d src : Slot) (C D : Matrix4), s.qp.toNat ≤ 51 → s.slotIs src C →
    (∀ r c, D r c = dcScaled s.qp.toNat ((hadamardOf * C * hadamardOf) r c)) →
    ((∀ r c, fitsSlot (D r c)) → ∃ t, exec (.ihadq d src) s = .next t ∧ slotStored s t d D) ∧
    ((∃ r c, ¬fitsSlot (D r c)) → exec (.ihadq d src) s = .next (errorEnd s .arithOverflow s.bitpos.toNat))

/-- 43_transform.md R392: `PRES` stores the inverse transform of `Cs`, for every `PRES_A`; and with an all-zero coefficient slot
the result is that of `IDCT` on the prediction term's slot. -/
def Obligations.PresReconstructsTheResidual : Prop :=
  ∀ (s : State) (d src u : Slot) (X F : Matrix4), s.qp.toNat ≤ 51 → s.slotIs src X → s.slotIs u F →
    ((∀ r c, fitsSlot (inverseOf (presSum s.params.presA s.qp.toNat X F) r c)) → ∃ t, exec (.pres d src u) s = .next t ∧
      slotStored s t d (inverseOf (presSum s.params.presA s.qp.toNat X F))) ∧
    ((∃ r c, ¬fitsSlot (inverseOf (presSum s.params.presA s.qp.toNat X F) r c)) →
      exec (.pres d src u) s = .next (errorEnd s .arithOverflow s.bitpos.toNat)) ∧
    (X = 0 → exec (.pres d src u) s = exec (.idct d u) s)

/-! Prediction and reconstruction. -/

/-- 44_prediction.md R451 .. R455: `IPRED` forms the prediction of its mode from the available neighbours, raises
`InvalidFieldValue` when the mode needs one that is outside the picture, and faults on an available one that nothing has
written. -/
def Obligations.IpredFormsThePrediction : Prop :=
  ∀ (s : State) (mode : Two), s.inPicture →
    (∀ H V P, s.intraIs H V P →
      (s.modeAvailable mode → ∃ t, exec (.ipred mode) s = .next t ∧ predStored s t (s.predictionOf H V P mode)) ∧
      (¬s.modeAvailable mode → exec (.ipred mode) s = .next (errorEnd s .invalidFieldValue s.bitpos.toNat))) ∧
    (s.intraUnwritten → exec (.ipred mode) s = .fault .undefinedRead)

/-- 44_prediction.md R456: `IPSEL` chooses an available mode of least error, the lowest of them on a tie, and reports the mode,
its sum of absolute errors and its prediction; it faults on a sample of `SRC`, or an available neighbour, that nothing has
written. -/
def Obligations.IpselChoosesTheLeastError : Prop :=
  ∀ s : State, s.inPicture →
    (∀ (H V : Nat → Int) (P : Int) (S : Nat → Nat → Int), s.intraIs H V P →
      (∀ y < 16, ∀ x < 16, sampleIs s.src (16 * y + x) (S y x)) →
      ∃ (t : State) (mode : Two), exec .ipsel s = .next t ∧ s.modeAvailable mode ∧
        (∀ m, s.modeAvailable m → s.errorOf S H V P mode ≤ s.errorOf S H V P m) ∧
        (∀ m : Two, m.toNat < mode.toNat → s.modeAvailable m → s.errorOf S H V P mode < s.errorOf S H V P m) ∧
        t.res.toNat = mode.toNat ∧ (t.sae.toNat : Int) = s.errorOf S H V P mode ∧
        predStored { s with res := t.res, sae := t.sae } t (s.predictionOf H V P mode)) ∧
    (s.intraUnwritten ∨ (∃ k < 256, cellRead s.src k = none) → exec .ipsel s = .fault .undefinedRead)

/-- 44_prediction.md R457: `RSUB` stores source minus prediction of a 4×4 block. -/
def Obligations.RsubStoresTheResidual : Prop :=
  ∀ (s : State) (slot : Slot) (bx byy : Two),
    (∀ A P : Matrix4, (∀ r c, blockSampleIs s.src bx byy r c (A r c)) → (∀ r c, blockSampleIs s.pred bx byy r c (P r c)) →
      ∃ t, exec (.rsub slot bx byy) s = .next t ∧ slotStored s t slot (A - P)) ∧
    ((∃ r c, blockSampleUnwritten s.src bx byy r c ∨ blockSampleUnwritten s.pred bx byy r c) →
      exec (.rsub slot bx byy) s = .fault .undefinedRead)

/-- 44_prediction.md R458, R459: `RECON` writes the clipped sum of prediction and residual of a 4×4 block into `REC`, and `RCOPY`
the whole prediction; every other sample of `REC` keeps its value. -/
def Obligations.ReconAndRcopyWriteTheFrame : Prop :=
  ∀ (s : State) (slot : Slot) (bx byy : Two), s.inPicture →
    (∀ P X : Matrix4, (∀ r c, blockSampleIs s.pred bx byy r c (P r c)) → s.slotIs slot X →
      ∃ t, exec (.recon slot bx byy) s = .next t ∧
        (∀ r c : Fin 4, sampleIs t.recFrame (recKey s (4 * byy.toNat + r.val) (4 * bx.toNat + c.val))
          (max 0 (min 255 (P r c + X r c)))) ∧
        (∀ k, (∀ r c : Fin 4, k ≠ recKey s (4 * byy.toNat + r.val) (4 * bx.toNat + c.val)) →
          cellRead t.recFrame k = cellRead s.recFrame k) ∧
        t.busy = false ∧ t.done = true ∧ { t with recFrame := s.recFrame, busy := s.busy, done := s.done } = s) ∧
    (∀ f : Nat → Nat → Int, (∀ y < 16, ∀ x < 16, sampleIs s.pred (16 * y + x) (f y x)) →
      ∃ t, exec .rcopy s = .next t ∧
        (∀ y < 16, ∀ x < 16, sampleIs t.recFrame (recKey s y x) (f y x)) ∧
        (∀ k, (∀ y < 16, ∀ x < 16, k ≠ recKey s y x) → cellRead t.recFrame k = cellRead s.recFrame k) ∧
        t.busy = false ∧ t.done = true ∧ { t with recFrame := s.recFrame, busy := s.busy, done := s.done } = s) ∧
    ((∃ r c, blockSampleUnwritten s.pred bx byy r c ∨ s.elemUnwritten slot r c) →
      exec (.recon slot bx byy) s = .fault .undefinedRead) ∧
    ((∃ k < 256, cellRead s.pred k = none) → exec .rcopy s = .fault .undefinedRead)

/-- 44_prediction.md R463: `MVPRED` returns the median of the neighbours' vectors, each missing one replaced by the first
available one, packed with the vertical component in the high half; an available neighbour that is not valid raises
`ContextNotWritten`. -/
def Obligations.MvpredReturnsTheMedian : Prop :=
  ∀ s : State, s.inPicture →
    (∀ a b c : Option (Int × Int),
      s.vectorIs (0 < mbx s) (mbx s - 1) (mby s) a → s.vectorIs (0 < mby s) (mbx s) (mby s - 1) b →
      s.vectorIs (0 < mby s ∧ mbx s + 1 < wmbs s) (mbx s + 1) (mby s - 1) c →
      ∃ t, exec .mvpred s = .next t ∧ (t.res.extractLsb' 0 16).toInt = (vectorOf a b c).1 ∧
        (t.res.extractLsb' 16 16).toInt = (vectorOf a b c).2 ∧ t.busy = false ∧ t.done = true ∧
        { t with res := s.res, busy := s.busy, done := s.done } = s) ∧
    (s.vectorMissing (0 < mbx s) (mbx s - 1) (mby s) ∨ s.vectorMissing (0 < mby s) (mbx s) (mby s - 1) ∨
      s.vectorMissing (0 < mby s ∧ mbx s + 1 < wmbs s) (mbx s + 1) (mby s - 1) →
      exec .mvpred s = .next (errorEnd s .contextNotWritten s.bitpos.toNat))

/-- 44_prediction.md R464: `MVSET` stores the two halves of `OPR` or `RES` as the current macroblock's vector. -/
def Obligations.MvsetStoresTheVector : Prop :=
  ∀ (s : State) (res : Bool), s.inPicture → ∃ t c, exec (.mvset res) s = .next t ∧
    cellRead t.mvg (mvKey (mbx s) (mby s)) = some c ∧ c.valid = true ∧
    c.mvy ++ c.mvx = (if res = true then s.res else s.opr) ∧
    (∀ k, k ≠ mvKey (mbx s) (mby s) → cellRead t.mvg k = cellRead s.mvg k) ∧
    t.busy = false ∧ t.done = true ∧ { t with mvg := s.mvg, busy := s.busy, done := s.done } = s

/-- 44_prediction.md R465 .. R467: `MCOPY` copies from `REF` the macroblock displaced by its vector, each coordinate clamped to the
picture; it raises `ContextNotWritten` when the vector is not set, and faults on an unwritten sample. -/
def Obligations.McopyCopiesTheDisplacedBlock : Prop :=
  ∀ s : State, s.inPicture →
    (s.vectorMissing True (mbx s) (mby s) → exec .mcopy s = .next (errorEnd s .contextNotWritten s.bitpos.toNat)) ∧
    (∀ c, cellRead s.mvg (mvKey (mbx s) (mby s)) = some c → c.valid = true →
      (∀ f : Nat → Nat → Int,
        (∀ y < 16, ∀ x < 16, sampleIs s.refFrame (referenceKey s c.mvx.toInt c.mvy.toInt y x) (f y x)) →
        ∃ t, exec .mcopy s = .next t ∧ predStored s t f) ∧
      ((∃ y < 16, ∃ x < 16, cellRead s.refFrame (referenceKey s c.mvx.toInt c.mvy.toInt y x) = none) →
        exec .mcopy s = .fault .undefinedRead))

/-- 44_prediction.md R470: what rules R450 .. R469 imply. `IPRED 2` at `(0,0)` gives 128 everywhere, whatever `REC` holds; the
mode that `IPSEL` chose is accepted by `IPRED` and gives the same prediction; `RSUB` and then `RECON` write the source into
`REC`; `MVPRED` in the top row, right of the corner, returns the left neighbour's vector. -/
def Obligations.PredictionProperties : Prop :=
  (∀ s : State, s.inPicture → mbx s = 0 → mby s = 0 → ∃ t, exec (.ipred 2) s = .next t ∧ predStored s t (fun _ _ => 128)) ∧
  (∀ s t : State, exec .ipsel s = .next t → t.done = true →
    ∃ (mode : Two) (u : State), t.res = mode.setWidth 32 ∧ exec (.ipred mode) t = .next u ∧ u.done = true ∧
      ∀ k, cellRead u.pred k = cellRead t.pred k) ∧
  (∀ (s : State) (slot : Slot) (bx byy : Two) (A P : Matrix4), s.inPicture →
    (∀ r c, blockSampleIs s.src bx byy r c (A r c)) → (∀ r c, blockSampleIs s.pred bx byy r c (P r c)) →
    ∃ t u, exec (.rsub slot bx byy) s = .next t ∧ exec (.recon slot bx byy) t = .next u ∧
      ∀ r c : Fin 4, sampleIs u.recFrame (recKey s (4 * byy.toNat + r.val) (4 * bx.toNat + c.val)) (A r c)) ∧
  (∀ (s : State) (c : MvCell), s.inPicture → mby s = 0 → 0 < mbx s →
    cellRead s.mvg (mvKey (mbx s - 1) 0) = some c → c.valid = true →
    ∃ t, exec .mvpred s = .next t ∧ t.res = c.mvy ++ c.mvx ∧ t.done = true)
end

