-- ==== Sys2Proof/Laws/Cells.lean ====
section
/-! SUPPORT. Sparse storage: what a read sees after a write, that every write keeps the canonical form, and which
entries a write leaves in the list. -/

namespace Sys2Proof.Machine

variable {α : Type}

/-! What a read sees. -/

@[simp] theorem cellRead_nil (a : Nat) : cellRead ([] : Cells α) a = none := rfl

theorem cellRead_cons (k a : Nat) (v : α) (m : Cells α) :
    cellRead ((k, v) :: m) a = if k = a then some v else cellRead m a := rfl

theorem cellRead_cellWrite (a b : Nat) (v : α) (m : Cells α) :
    cellRead (cellWrite a v m) b = if a = b then some v else cellRead m b := by
  induction m with
  | nil => simp [cellWrite, cellRead_cons]
  | cons e m ih =>
    obtain ⟨k, w⟩ := e
    unfold cellWrite
    split_ifs with h1 h2 h3 h4
    · rw [cellRead_cons, if_pos h2]
    · rw [cellRead_cons, if_neg h2]
    · rw [cellRead_cons, if_pos h4]
    · rw [cellRead_cons, if_neg h4, cellRead_cons, if_neg (by omega)]
    · rw [cellRead_cons, if_neg (by omega), ih, if_pos (by assumption)]
    · rw [cellRead_cons, cellRead_cons, ih, if_neg (show ¬a = b by assumption)]

@[simp] theorem cellRead_cellWrite_self (a : Nat) (v : α) (m : Cells α) :
    cellRead (cellWrite a v m) a = some v := by simp [cellRead_cellWrite]

theorem cellRead_cellWrite_of_ne {a b : Nat} (h : a ≠ b) (v : α) (m : Cells α) :
    cellRead (cellWrite a v m) b = cellRead m b := by simp [cellRead_cellWrite, h]

/-- After a list of writes a read sees the first entry of the list for its key, and else the storage as it was. -/
theorem cellRead_cellWriteAll (m : Cells α) (es : List (Nat × α)) (b : Nat) :
    cellRead (cellWriteAll m es) b = (cellRead es b).or (cellRead m b) := by
  induction es with
  | nil => simp [cellWriteAll]
  | cons e es ih =>
    have : cellWriteAll m (e :: es) = cellWrite e.1 e.2 (cellWriteAll m es) := rfl
    rw [this, cellRead_cellWrite, ih]
    obtain ⟨k, v⟩ := e
    simp only [cellRead_cons]
    split_ifs <;> simp

theorem cellRead_append (m n : List (Nat × α)) (b : Nat) :
    cellRead (m ++ n) b = (cellRead m b).or (cellRead n b) := by
  induction m with
  | nil => simp
  | cons e m ih =>
    obtain ⟨k, v⟩ := e
    rw [List.cons_append, cellRead_cons, cellRead_cons, ih]
    split_ifs <;> simp

theorem cellRead_eq_none_iff (m : Cells α) (b : Nat) : cellRead m b = none ↔ ∀ e ∈ m, e.1 ≠ b := by
  induction m with
  | nil => simp
  | cons e m ih =>
    obtain ⟨k, v⟩ := e
    rw [cellRead_cons]
    split_ifs with h <;> simp_all

theorem mem_of_cellRead {m : Cells α} {b : Nat} {v : α} (h : cellRead m b = some v) : (b, v) ∈ m := by
  induction m with
  | nil => simp at h
  | cons e m ih =>
    obtain ⟨k, w⟩ := e
    rw [cellRead_cons] at h
    split_ifs at h with hk
    · simp_all
    · exact List.mem_cons_of_mem _ (ih h)

/-- Entries listed at `base + i` for each `i < n`. -/
theorem cellRead_range_map (base n : Nat) (g : Nat → α) (b : Nat) :
    cellRead ((List.range n).map (fun i => (base + i, g i))) b
      = if base ≤ b ∧ b < base + n then some (g (b - base)) else none := by
  induction n with
  | zero => simp
  | succ n ih =>
    rw [List.range_succ, List.map_append, cellRead_append, ih, List.map_singleton, cellRead_cons, cellRead_nil]
    rcases Nat.lt_trichotomy b (base + n) with h | h | h
    · rw [if_neg (show ¬base + n = b by omega), Option.or_none]
      exact if_congr (by omega) rfl rfl
    · subst h
      simp
    · rw [if_neg (by omega), if_neg (by omega), if_neg (by omega), Option.or_none]

/-! Entries. -/

theorem mem_cellWrite {a : Nat} {v : α} {m : Cells α} {e : Nat × α} (h : e ∈ cellWrite a v m) :
    e = (a, v) ∨ e ∈ m := by
  induction m with
  | nil => simpa [cellWrite] using h
  | cons x m ih =>
    obtain ⟨k, w⟩ := x
    unfold cellWrite at h
    split_ifs at h <;> simp only [List.mem_cons] at h ⊢
    · tauto
    · tauto
    · rcases h with h | h
      · tauto
      · rcases ih h with h | h <;> tauto

theorem mem_cellWriteAll {m : Cells α} {es : List (Nat × α)} {e : Nat × α} (h : e ∈ cellWriteAll m es) :
    e ∈ es ∨ e ∈ m := by
  induction es with
  | nil => exact .inr h
  | cons x es ih =>
    rcases mem_cellWrite (show e ∈ cellWrite x.1 x.2 (cellWriteAll m es) from h) with h | h
    · exact .inl (by simp [h])
    · rcases ih h with h | h
      · exact .inl (List.mem_cons_of_mem _ h)
      · exact .inr h

/-- A property of every entry survives a write of entries that have it. -/
theorem forall_mem_cellWrite {p : Nat × α → Prop} {a : Nat} {v : α} {m : Cells α} (hm : ∀ e ∈ m, p e)
    (hv : p (a, v)) : ∀ e ∈ cellWrite a v m, p e := by
  intro e he
  rcases mem_cellWrite he with rfl | h
  · exact hv
  · exact hm e h

theorem forall_mem_cellWriteAll {p : Nat × α → Prop} {es : List (Nat × α)} {m : Cells α} (hm : ∀ e ∈ m, p e)
    (hv : ∀ e ∈ es, p e) : ∀ e ∈ cellWriteAll m es, p e := by
  intro e he
  rcases mem_cellWriteAll he with h | h
  · exact hv e h
  · exact hm e h

/-! The canonical form. -/

theorem cellsRising_nil : cellsRising ([] : Cells α) := List.Pairwise.nil

theorem cellsRising_cellWrite {m : Cells α} (a : Nat) (v : α) (h : cellsRising m) :
    cellsRising (cellWrite a v m) := by
  induction m with
  | nil => simp [cellsRising, cellWrite]
  | cons x m ih =>
    obtain ⟨k, w⟩ := x
    have hk : ∀ e ∈ m, k < e.1 := by
      intro e he
      have := (List.pairwise_cons.mp h).1 e.1 (List.mem_map_of_mem he)
      exact this
    have hm : cellsRising m := (List.pairwise_cons.mp h).2
    unfold cellWrite
    split_ifs with h1 h2
    · refine List.pairwise_cons.mpr ⟨?_, h⟩
      intro b hb
      simp only [List.map_cons, List.mem_cons, List.mem_map] at hb
      rcases hb with rfl | ⟨e, he, rfl⟩
      · exact h1
      · exact h1.trans (hk e he)
    · subst h2
      exact h
    · refine List.pairwise_cons.mpr ⟨?_, ih hm⟩
      intro b hb
      obtain ⟨e, he, rfl⟩ := List.mem_map.mp hb
      rcases mem_cellWrite he with rfl | he
      · simp only; omega
      · exact hk e he

theorem cellsRising_cellWriteAll {m : Cells α} (es : List (Nat × α)) (h : cellsRising m) :
    cellsRising (cellWriteAll m es) := by
  induction es with
  | nil => exact h
  | cons e es ih => exact cellsRising_cellWrite e.1 e.2 ih

theorem cellsRising_invalidateNc {m : Cells NcCell} (h : cellsRising m) : cellsRising (invalidateNc m) := by
  have : (invalidateNc m).map Prod.fst = m.map Prod.fst := by simp [invalidateNc, Function.comp_def]
  unfold cellsRising
  rw [this]
  exact h

theorem cellsRising_invalidateMv {m : Cells MvCell} (h : cellsRising m) : cellsRising (invalidateMv m) := by
  have : (invalidateMv m).map Prod.fst = m.map Prod.fst := by simp [invalidateMv, Function.comp_def]
  unfold cellsRising
  rw [this]
  exact h

/-! The grids after their valid bits are cleared. -/

theorem cellRead_invalidateNc (m : Cells NcCell) (b : Nat) :
    cellRead (invalidateNc m) b = (cellRead m b).map (fun c => { c with valid := false }) := by
  induction m with
  | nil => rfl
  | cons x m ih =>
    obtain ⟨k, w⟩ := x
    have : invalidateNc ((k, w) :: m) = (k, { w with valid := false }) :: invalidateNc m := rfl
    rw [this, cellRead_cons, cellRead_cons, ih]
    split_ifs <;> rfl

theorem cellRead_invalidateMv (m : Cells MvCell) (b : Nat) :
    cellRead (invalidateMv m) b = (cellRead m b).map (fun c => { c with valid := false }) := by
  induction m with
  | nil => rfl
  | cons x m ih =>
    obtain ⟨k, w⟩ := x
    have : invalidateMv ((k, w) :: m) = (k, { w with valid := false }) :: invalidateMv m := rfl
    rw [this, cellRead_cons, cellRead_cons, ih]
    split_ifs <;> rfl

/-- Nothing a write does makes a written entry unwritten (10_state.md R83). -/
theorem cellRead_cellWrite_isSome {m : Cells α} {a b : Nat} {v : α} (h : (cellRead m b).isSome) :
    (cellRead (cellWrite a v m) b).isSome := by
  rw [cellRead_cellWrite]
  split_ifs <;> simp_all

theorem cellRead_cellWriteAll_isSome {m : Cells α} {b : Nat} (es : List (Nat × α)) (h : (cellRead m b).isSome) :
    (cellRead (cellWriteAll m es) b).isSome := by
  rw [cellRead_cellWriteAll]
  cases cellRead es b <;> simp_all

end Sys2Proof.Machine
end

