-- ==== Sys2Proof/Laws/Memory.lean ====
section
/-! SUPPORT. Every memory operation keeps the canonical form (`Memory.wf`), and the state after power-on has it. -/

namespace Sys2Proof.Machine

/-- Nothing is listed after power-on (10_state.md R85). -/
theorem wf_powerOn (p : Params) : Memory.wf (State.powerOn p) := by
  refine ⟨?_, ?_, ?_, ?_, ?_, ?_, ?_, ?_⟩ <;> exact cellsRising_nil

/-! The ends of a command change no memory. -/

theorem wf_complete {s : State} (h : Memory.wf s) : Memory.wf (complete s) := h

theorem wf_errorEnd {s : State} (e : ErrCode) (info : Nat) (h : Memory.wf s) : Memory.wf (errorEnd s e info) := h

theorem wf_errorClear {s : State} (h : Memory.wf s) : Memory.wf (errorClear s) := h

theorem wf_markDropped {s : State} (h : Memory.wf s) : Memory.wf (markDropped s) := h

theorem wf_acceptCommand {s : State} (w : Word) (h : Memory.wf s) : Memory.wf (acceptCommand s w) := h

theorem wf_latched {s : State} (w : Word) (h : Memory.wf s) : Memory.wf (latched s w) := h

/-! Registers. -/

theorem wf_writeReg {s : State} (i : Nat) (v : Word) (h : Memory.wf s) : Memory.wf (writeReg s i v) := by
  unfold writeReg
  split <;> exact h

/-! Slots, samples and the stream. -/

theorem wf_setCb {s : State} {m : Cells Word} (hm : cellsRising m) (h : Memory.wf s) : Memory.wf { s with cb := m } :=
  ⟨hm, h.2⟩

theorem wf_setPred {s : State} {m : Cells Byte} (hm : cellsRising m) (h : Memory.wf s) :
    Memory.wf { s with pred := m } :=
  ⟨h.1, hm, h.2.2⟩

theorem wf_setBsb {s : State} {m : Cells Bool} (hm : cellsRising m) (h : Memory.wf s) : Memory.wf { s with bsb := m } :=
  ⟨h.1, h.2.1, h.2.2.1, hm, h.2.2.2.2⟩

theorem wf_setRec {s : State} {m : Cells Byte} (hm : cellsRising m) (h : Memory.wf s) :
    Memory.wf { s with recFrame := m } :=
  ⟨h.1, h.2.1, h.2.2.1, h.2.2.2.1, h.2.2.2.2.1, h.2.2.2.2.2.1, hm, h.2.2.2.2.2.2.2⟩

theorem wf_writeSlot {s : State} (slot : Slot) (b : Block) (h : Memory.wf s) : Memory.wf (writeSlot s slot b) := by
  unfold writeSlot
  exact wf_setCb (cellsRising_cellWriteAll _ h.1) h

theorem wf_writePred {s : State} (p : Samples) (h : Memory.wf s) : Memory.wf (writePred s p) := by
  unfold writePred
  exact wf_setPred (cellsRising_cellWriteAll _ h.2.1) h

theorem wf_putBits {s : State} (code : List Bool) (h : Memory.wf s) : Memory.wf (putBits s code) := by
  unfold putBits
  exact wf_setBsb (s := { s with bitpos := _, bitlen := _ }) (cellsRising_cellWriteAll _ h.2.2.2.1) h

theorem wf_writeRec {s : State} (es : List (Nat × Byte)) (h : Memory.wf s) : Memory.wf (writeRec s es) := by
  unfold writeRec
  exact wf_setRec (cellsRising_cellWriteAll _ h.2.2.2.2.2.2.1) h

/-! Grids. -/

theorem wf_setNcg {s : State} {m : Cells NcCell} (hm : cellsRising m) (h : Memory.wf s) :
    Memory.wf { s with ncg := m } :=
  ⟨h.1, h.2.1, h.2.2.1, h.2.2.2.1, hm, h.2.2.2.2.2⟩

theorem wf_setMvg {s : State} {m : Cells MvCell} (hm : cellsRising m) (h : Memory.wf s) :
    Memory.wf { s with mvg := m } :=
  ⟨h.1, h.2.1, h.2.2.1, h.2.2.2.1, h.2.2.2.2.1, hm, h.2.2.2.2.2.2⟩

theorem wf_putNc {s : State} (p : Plane) (tc bx byy : Nat) (h : Memory.wf s) : Memory.wf (putNc s p tc bx byy) :=
  wf_setNcg (cellsRising_cellWrite _ _ h.2.2.2.2.1) h

theorem wf_putNcAll {s : State} (p : Plane) (tc : Nat) (h : Memory.wf s) : Memory.wf (putNcAll s p tc) := by
  unfold putNcAll
  generalize List.range (planeBlocks p * planeBlocks p) = l
  induction l generalizing s with
  | nil => exact h
  | cons k l ih => exact ih (wf_putNc p tc _ _ h)

theorem wf_writeBack {s : State} (plane : Option Plane) (wb : Bool) (tc : Nat) (bx byy : Two) (h : Memory.wf s) :
    Memory.wf (writeBack s plane wb tc bx byy) := by
  unfold writeBack
  split
  · split
    · exact wf_putNc _ _ _ _ h
    · exact h
  · exact h

theorem wf_cavlcResults {s : State} (plane : Option Plane) (wb : Bool) (bx byy : Two) (n tc t1 : Nat)
    (h : Memory.wf s) : Memory.wf (cavlcResults s plane wb bx byy n tc t1) :=
  wf_writeBack plane wb tc bx byy (s := { s with res := _, cvstat := _ }) h

/-- Clearing every valid bit (45_control.md R513) keeps the keys. -/
theorem wf_gridClear {s : State} (h : Memory.wf s) :
    Memory.wf { s with ncg := invalidateNc s.ncg, mvg := invalidateMv s.mvg } :=
  ⟨h.1, h.2.1, h.2.2.1, h.2.2.2.1, cellsRising_invalidateNc h.2.2.2.2.1, cellsRising_invalidateMv h.2.2.2.2.2.1,
    h.2.2.2.2.2.2⟩

theorem wf_softReset {s : State} (h : Memory.wf s) : Memory.wf (softReset s) := wf_gridClear h

/-! The host. -/

theorem wf_writeCtrl {s : State} (v : Word) (h : Memory.wf s) : Memory.wf (writeCtrl s v) := by
  unfold writeCtrl
  split_ifs
  · exact wf_softReset h
  · exact h
  · exact h

theorem wf_writeStatus {s : State} (v : Word) (h : Memory.wf s) : Memory.wf (writeStatus s v) := by
  unfold writeStatus
  split_ifs <;> exact h

theorem wf_writeCmd {s : State} (w : Word) (h : Memory.wf s) : Memory.wf (writeCmd s w) := by
  unfold writeCmd
  split_ifs <;> exact h

theorem wf_busStore {s : State} (o : Nat) (v : Word) (h : Memory.wf s) : Memory.wf (busStore s o v) := by
  unfold busStore
  split
  · exact wf_writeReg _ v h
  · exact ⟨cellsRising_cellWrite _ _ h.1, h.2⟩
  · exact ⟨h.1, cellsRising_cellWriteAll _ h.2.1, h.2.2⟩
  · exact ⟨h.1, h.2.1, cellsRising_cellWriteAll _ h.2.2.1, h.2.2.2⟩
  · exact ⟨h.1, h.2.1, h.2.2.1, cellsRising_cellWriteAll _ h.2.2.2.1, h.2.2.2.2⟩
  · exact h

theorem wf_busWrite {s : State} (off v : Word) (h : Memory.wf s) : Memory.wf (busWrite s off v) := by
  unfold busWrite
  split_ifs
  · exact wf_writeCtrl v h
  · exact wf_writeStatus v h
  · exact wf_writeCmd v h
  · exact h
  · exact wf_busStore _ v h

/-- A host move that answers a next state keeps the canonical form. -/
theorem wf_hostAct {s t : State} {a : HostAction} (h : Memory.wf s) (ht : hostAct s a = .next t) : Memory.wf t := by
  cases a with
  | write off v =>
    cases ht
    exact wf_busWrite off v h
  | read off =>
    simp only [hostAct, busRead] at ht
    split_ifs at ht
    · cases ht
      exact h
    · split at ht
      · cases ht
        exact h
      · cases ht
      · cases ht
        exact h
  | supplyRef y x v =>
    cases ht
    exact ⟨h.1, h.2.1, h.2.2.1, h.2.2.2.1, h.2.2.2.2.1, h.2.2.2.2.2.1, h.2.2.2.2.2.2.1,
      cellsRising_cellWrite _ _ h.2.2.2.2.2.2.2⟩
  | supplyRec y x v =>
    cases ht
    exact ⟨h.1, h.2.1, h.2.2.1, h.2.2.2.1, h.2.2.2.2.1, h.2.2.2.2.2.1,
      cellsRising_cellWrite _ _ h.2.2.2.2.2.2.1, h.2.2.2.2.2.2.2⟩

end Sys2Proof.Machine
end

