-- ==== Sys2Proof/Laws/Ops.lean ====
section
/-! SUPPORT. What each shared operation of Machine/Ops.lean and Machine/Operands.lean can do, said once: the ends of a
command, the checks, the reads of storage and of the stream, and the writes of slots, samples and bits. -/

namespace Sys2Proof.Machine

variable {α β : Type}

/-! The result of a command. -/

@[simp] theorem raise_eq (e : ErrCode) (info : Nat) : (raise e info : Cmd α) = .error (.raise e info) := rfl

/-- A computation that answers a value answers through a value of its first part. -/
theorem bind_eq_ok {x : Cmd α} {f : α → Cmd β} {b : β} :
    (x >>= f) = .ok b ↔ ∃ a, x = .ok a ∧ f a = .ok b := by
  cases x <;> simp [bind, Except.bind]

theorem bind_eq_error {x : Cmd α} {f : α → Cmd β} {e : Stop} :
    (x >>= f) = .error e ↔ x = .error e ∨ ∃ a, x = .ok a ∧ f a = .error e := by
  cases x <;> simp [bind, Except.bind]

@[simp] theorem ok_bind (a : α) (f : α → Cmd β) : ((Except.ok a : Cmd α) >>= f) = f a := rfl

@[simp] theorem error_bind (e : Stop) (f : α → Cmd β) : ((Except.error e : Cmd α) >>= f) = .error e := rfl

@[simp] theorem pure_eq_ok (a : α) : (pure a : Cmd α) = .ok a := rfl

@[simp] theorem runCommand_ok (s t : State) : runCommand s (.ok t) = .next (complete t) := rfl

@[simp] theorem runCommand_raise (s : State) (e : ErrCode) (info : Nat) :
    runCommand s (.error (.raise e info)) = .next (errorEnd s e info) := rfl

@[simp] theorem runCommand_fault (s : State) (f : Fault) : runCommand s (.error (.fault f)) = .fault f := rfl

/-- Everything a command that answers a next state can have done. -/
theorem runCommand_eq_next {s t : State} {c : Cmd State} :
    runCommand s c = .next t ↔
      (∃ u, c = .ok u ∧ t = complete u) ∨ (∃ e info, c = .error (.raise e info) ∧ t = errorEnd s e info) := by
  match c with
  | .ok u => simp [eq_comm]
  | .error (.raise e info) => simp [eq_comm]
  | .error (.fault f) => simp

theorem runCommand_eq_fault {s : State} {c : Cmd State} {f : Fault} :
    runCommand s c = .fault f ↔ c = .error (.fault f) := by
  match c with
  | .ok u => simp
  | .error (.raise e info) => simp
  | .error (.fault f) => simp

/-- No command of the model is refused. -/
theorem runCommand_ne_refused (s : State) (c : Cmd State) (r : Refusal) : runCommand s c ≠ .refused r := by
  match c with
  | .ok u => simp
  | .error (.raise e info) => simp
  | .error (.fault f) => simp

/-! Checks. -/

theorem require_eq_ok {ok : Bool} {e : ErrCode} {info : Nat} {u : Unit} :
    require ok e info = .ok u ↔ ok = true := by
  cases ok <;> simp [require]

theorem require_eq_error {ok : Bool} {e : ErrCode} {info : Nat} {x : Stop} :
    require ok e info = .error x ↔ ok = false ∧ x = .raise e info := by
  cases ok <;> simp [require, eq_comm]

@[simp] theorem require_true (e : ErrCode) (info : Nat) : require true e info = .ok () := rfl

@[simp] theorem require_false (e : ErrCode) (info : Nat) : require false e info = .error (.raise e info) := rfl

theorem legal_eq_ok {ok : Bool} {s : State} {u : Unit} : legal ok s = .ok u ↔ ok = true := require_eq_ok

@[simp] theorem legal_true (s : State) : legal true s = .ok () := rfl

@[simp] theorem legal_false (s : State) : legal false s = .error (.raise .illegalCommand (here s)) := rfl

theorem checkPicture_eq_ok {s : State} {u : Unit} :
    checkPicture s = .ok u ↔ picdimOk s = true ∧ mbposOk s = true := by
  simp [checkPicture, bind_eq_ok, require_eq_ok]

/-- A failed picture check raises `InvalidFieldValue` at `BITPOS`, whichever of the two fails. -/
theorem checkPicture_of_not {s : State} (h : ¬(picdimOk s = true ∧ mbposOk s = true)) :
    checkPicture s = .error (.raise .invalidFieldValue (here s)) := by
  unfold checkPicture
  cases hp : picdimOk s <;> cases hm : mbposOk s <;> simp_all

theorem checkQp_eq_ok {s : State} {u : Unit} : checkQp s = .ok u ↔ s.qp.toNat ≤ 51 := by
  simp [checkQp, require_eq_ok]

theorem checkQp_of_not {s : State} (h : ¬s.qp.toNat ≤ 51) :
    checkQp s = .error (.raise .invalidFieldValue (here s)) := by
  simp [checkQp, h]

/-! Reads of storage. -/

@[simp] theorem written_some (v : α) : written (some v) = .ok v := rfl

@[simp] theorem written_none : written (none : Option α) = .error (.fault .undefinedRead) := rfl

theorem written_eq_ok {o : Option α} {v : α} : written o = .ok v ↔ o = some v := by
  cases o <;> simp

theorem written_eq_error {o : Option α} {x : Stop} :
    written o = .error x ↔ o = none ∧ x = .fault .undefinedRead := by
  cases o <;> simp [eq_comm]

/-- A list of reads that all answer. -/
theorem readEach_of_forall {f : β → Cmd α} {g : β → α} {l : List β} (h : ∀ b ∈ l, f b = .ok (g b)) :
    readEach f l = .ok (l.map g) := by
  induction l with
  | nil => rfl
  | cons b l ih =>
    have hb := h b (by simp)
    have hl := ih (fun c hc => h c (by simp [hc]))
    simp [readEach, hb, hl]

/-- What a list of reads can answer. -/
theorem readEach_eq_ok {f : β → Cmd α} {l : List β} {vs : List α} :
    readEach f l = .ok vs ↔ List.Forall₂ (fun b v => f b = .ok v) l vs := by
  induction l generalizing vs with
  | nil => simp [readEach, eq_comm]
  | cons b l ih =>
    simp only [readEach, bind_eq_ok, pure_eq_ok, Except.ok.injEq, List.forall₂_cons_left_iff]
    constructor
    · rintro ⟨v, hv, ws, hws, rfl⟩
      exact ⟨v, ws, hv, ih.mp hws, rfl⟩
    · rintro ⟨v, ws, hv, hws, rfl⟩
      exact ⟨v, hv, ws, ih.mpr hws, rfl⟩

theorem readEach_length {f : β → Cmd α} {l : List β} {vs : List α} (h : readEach f l = .ok vs) :
    vs.length = l.length := (readEach_eq_ok.mp h).length_eq.symm

/-- A list of reads stops as the first of its reads that stops. -/
theorem readEach_eq_error {f : β → Cmd α} {l : List β} {x : Stop} (h : readEach f l = .error x) :
    ∃ b ∈ l, f b = .error x := by
  induction l with
  | nil => simp [readEach] at h
  | cons b l ih =>
    rcases bind_eq_error.mp h with h | ⟨v, -, h⟩
    · exact ⟨b, by simp, h⟩
    · rcases bind_eq_error.mp h with h | ⟨vs, -, h⟩
      · obtain ⟨c, hc, hx⟩ := ih h
        exact ⟨c, by simp [hc], hx⟩
      · simp at h

/-- A list of reads, one of which faults while none raises, faults. -/
theorem readEach_fault {f : β → Cmd α} {l : List β}
    (hf : ∀ b ∈ l, ∀ x, f b = .error x → x = .fault .undefinedRead)
    (h : ∃ b ∈ l, f b = .error (.fault .undefinedRead)) : readEach f l = .error (.fault .undefinedRead) := by
  cases hr : readEach f l with
  | error x =>
    obtain ⟨b, hb, hx⟩ := readEach_eq_error hr
    rw [hf b hb x hx]
  | ok vs =>
    obtain ⟨b, hb, hx⟩ := h
    have hall := readEach_eq_ok.mp hr
    obtain ⟨i, hi, rfl⟩ := List.getElem_of_mem hb
    have := hall.get hi (by rw [← hall.length_eq]; exact hi)
    simp_all

/-! Slots. -/

theorem readElem_eq_ok {s : State} {slot : Slot} {k : Nat} {x : Int} :
    readElem s slot k = .ok x ↔ ∃ v : Word, cellRead s.cb (cbKey slot k) = some v ∧ v.toInt = x := by
  simp [readElem, bind_eq_ok, written_eq_ok]

theorem readElem_of_read {s : State} {slot : Slot} {k : Nat} {v : Word}
    (h : cellRead s.cb (cbKey slot k) = some v) : readElem s slot k = .ok v.toInt := by
  simp [readElem, h]

theorem readElem_eq_error {s : State} {slot : Slot} {k : Nat} {x : Stop} :
    readElem s slot k = .error x ↔ cellRead s.cb (cbKey slot k) = none ∧ x = .fault .undefinedRead := by
  simp [readElem, bind_eq_error, written_eq_error]

/-- Element `k` of a written slot. -/
theorem cellRead_writeSlot (s : State) (slot : Slot) (b : Block) (key : Nat) :
    cellRead (writeSlot s slot b).cb key
      = if 16 * slot.toNat ≤ key ∧ key < 16 * slot.toNat + 16 then
          some (BitVec.ofInt 32 (b.getD (key - 16 * slot.toNat) 0))
        else cellRead s.cb key := by
  have h : slotEntries slot b
      = (List.range 16).map (fun i => (16 * slot.toNat + i, BitVec.ofInt 32 (b.getD i 0))) := rfl
  simp only [writeSlot, cellRead_cellWriteAll, h, cellRead_range_map]
  split_ifs <;> simp

theorem storeBlock_eq_ok {s t : State} {slot : Slot} {b : Block} :
    storeBlock s slot b = .ok t ↔ (∀ x ∈ b, fitsElement x = true) ∧ t = writeSlot s slot b := by
  simp only [storeBlock, bind_eq_ok, require_eq_ok, List.all_eq_true, pure_eq_ok, Except.ok.injEq]
  exact ⟨fun ⟨_, h, ht⟩ => ⟨h, ht.symm⟩, fun ⟨h, ht⟩ => ⟨(), h, ht.symm⟩⟩

theorem storeBlock_of_not {s : State} {slot : Slot} {b : Block} (h : ¬∀ x ∈ b, fitsElement x = true) :
    storeBlock s slot b = .error (.raise .arithOverflow (here s)) := by
  have : b.all fitsElement = false := by
    rw [Bool.eq_false_iff]
    intro hb
    exact h (List.all_eq_true.mp hb)
  simp [storeBlock, this]

theorem fitsElement_iff {x : Int} : fitsElement x = true ↔ -(2 ^ 31) ≤ x ∧ x ≤ 2 ^ 31 - 1 := by
  simp [fitsElement]

/-- An element that fits 32 bits is stored without loss. -/
theorem toInt_ofInt_of_fits {x : Int} (h : fitsElement x = true) : (BitVec.ofInt 32 x).toInt = x := by
  rw [fitsElement_iff] at h
  rw [BitVec.toInt_ofInt, Int.bmod_eq_of_le] <;> norm_num at * <;> omega

@[simp] theorem length_mkBlock (f : Nat → Nat → Int) : (mkBlock f).length = 16 := by simp [mkBlock]

theorem getD_mkBlock (f : Nat → Nat → Int) {k : Nat} (h : k < 16) : (mkBlock f).getD k 0 = f (k / 4) (k % 4) := by
  simp [mkBlock, List.getD, h]

theorem at_mkBlock (f : Nat → Nat → Int) {r c : Nat} (hr : r < 4) (hc : c < 4) : (mkBlock f).at r c = f r c := by
  rw [Block.at, getD_mkBlock f (by omega)]
  congr 1 <;> omega

/-! Samples. -/

theorem readSample_eq_ok {m : Cells Byte} {key : Nat} {x : Int} :
    readSample m key = .ok x ↔ ∃ v : Byte, cellRead m key = some v ∧ (v.toNat : Int) = x := by
  simp [readSample, bind_eq_ok, written_eq_ok]

theorem readSample_of_read {m : Cells Byte} {key : Nat} {v : Byte} (h : cellRead m key = some v) :
    readSample m key = .ok (v.toNat : Int) := by
  simp [readSample, h]

theorem readSample_eq_error {m : Cells Byte} {key : Nat} {x : Stop} :
    readSample m key = .error x ↔ cellRead m key = none ∧ x = .fault .undefinedRead := by
  simp [readSample, bind_eq_error, written_eq_error]

/-- A sample of a written prediction buffer. -/
theorem cellRead_writePred (s : State) (p : Samples) (key : Nat) :
    cellRead (writePred s p).pred key
      = if key < 256 then some (toByte (p.getD key 0)) else cellRead s.pred key := by
  have h : (List.range 256).map (fun k => (k, toByte (p.getD k 0)))
      = (List.range 256).map (fun i => (0 + i, toByte (p.getD i 0))) := by simp
  simp only [writePred, h, cellRead_cellWriteAll, cellRead_range_map]
  split_ifs with h1 h2 h2
  · simp
  · omega
  · omega
  · simp

/-! The stream. -/

theorem needBits_eq_ok {s : State} {start pos n : Nat} {u : Unit} :
    needBits s start pos n = .ok u ↔ pos + n ≤ s.bitlen.toNat := by
  simp [needBits, require_eq_ok]

theorem needBits_of_not {s : State} {start pos n : Nat} (h : ¬pos + n ≤ s.bitlen.toNat) :
    needBits s start pos n = .error (.raise .bitstreamExhausted start) := by
  simp only [needBits, h]
  rfl

theorem streamBit_eq_ok {s : State} {k : Nat} {b : Bool} : streamBit s k = .ok b ↔ cellRead s.bsb k = some b :=
  written_eq_ok

@[simp] theorem length_msbBits (n v : Nat) : (msbBits n v).length = n := by simp [msbBits]

theorem getElem_msbBits (n v i : Nat) (h : i < (msbBits n v).length) :
    (msbBits n v)[i] = v.testBit (n - 1 - i) := by simp [msbBits]

theorem bitsValue_append (a b : List Bool) : bitsValue (a ++ b) = bitsValue a * 2 ^ b.length + bitsValue b := by
  have gen : ∀ (l : List Bool) (v : Nat),
      l.foldl (fun v b => 2 * v + b.toNat) v = v * 2 ^ l.length + bitsValue l := by
    intro l
    induction l with
    | nil => intro v; simp [bitsValue]
    | cons x l ih =>
      intro v
      rw [List.foldl_cons, ih]
      have : bitsValue (x :: l) = x.toNat * 2 ^ l.length + bitsValue l := by
        rw [bitsValue, List.foldl_cons, ih]
        simp
      rw [this, List.length_cons]
      ring
  rw [bitsValue, List.foldl_append, gen]
  rfl

theorem bitsValue_cons (b : Bool) (l : List Bool) : bitsValue (b :: l) = b.toNat * 2 ^ l.length + bitsValue l := by
  have := bitsValue_append [b] l
  simpa [bitsValue] using this

theorem bitsValue_lt (l : List Bool) : bitsValue l < 2 ^ l.length := by
  induction l with
  | nil => simp [bitsValue]
  | cons b l ih =>
    rw [bitsValue_cons, List.length_cons, pow_succ]
    cases b <;> simp <;> omega

theorem msbBits_succ (n v : Nat) : msbBits (n + 1) v = v.testBit n :: msbBits n v := by
  rw [msbBits, List.range_succ_eq_map, List.map_cons, List.map_map]
  congr 1
  apply List.map_congr_left
  intro i _
  simp only [Function.comp]
  congr 1
  omega

/-- The bits of a number, read back as a number (20_memory.md R125). -/
theorem bitsValue_msbBits (n v : Nat) : bitsValue (msbBits n v) = v % 2 ^ n := by
  induction n with
  | zero => simp [msbBits, bitsValue, Nat.mod_one]
  | succ n ih =>
    rw [msbBits_succ, bitsValue_cons, ih, length_msbBits, Nat.testBit_eq_decide_div_mod_eq]
    have h1 : v % 2 ^ (n + 1) = v / 2 ^ n % 2 * 2 ^ n + v % 2 ^ n := by
      rw [pow_succ, Nat.mod_mul, Nat.add_comm, Nat.mul_comm]
    rw [h1]
    congr 2
    rcases Nat.mod_two_eq_zero_or_one (v / 2 ^ n) with h | h <;> simp [h]

/-- The entries of a bit string in the stream. -/
theorem cellRead_bitEntries (pos : Nat) (code : List Bool) (k : Nat) :
    cellRead (bitEntries pos code) k = if pos ≤ k then code[k - pos]? else none := by
  induction code generalizing pos with
  | nil => simp [bitEntries]
  | cons b code ih =>
    have h : bitEntries pos (b :: code) = (pos, b) :: bitEntries (pos + 1) code := rfl
    rw [h, cellRead_cons, ih]
    by_cases hk : pos = k
    · subst hk
      simp
    · rw [if_neg hk]
      by_cases hp : pos ≤ k
      · rw [if_pos (by omega), if_pos hp, show k - pos = k - (pos + 1) + 1 by omega]
        rfl
      · rw [if_neg (by omega), if_neg hp]

/-- A stream bit after a bit string was put at `BITPOS`. -/
theorem cellRead_putBits (s : State) (code : List Bool) (k : Nat) :
    cellRead (putBits s code).bsb k
      = if h : here s ≤ k ∧ k < here s + code.length then some (code[k - here s]'(by omega))
        else cellRead s.bsb k := by
  simp only [putBits, cellRead_cellWriteAll, cellRead_bitEntries]
  by_cases h1 : here s ≤ k
  · rw [if_pos h1]
    by_cases h2 : k < here s + code.length
    · rw [dif_pos ⟨h1, h2⟩, List.getElem?_eq_getElem (by omega)]
      rfl
    · rw [dif_neg (by omega), List.getElem?_eq_none (by omega)]
      rfl
  · rw [if_neg h1, dif_neg (by omega)]
    rfl

theorem writeBits_eq_ok {s t : State} {code : List Bool} :
    writeBits s code = .ok t ↔ here s + code.length ≤ bufferBits s ∧ t = putBits s code := by
  simp only [writeBits, bind_eq_ok, require_eq_ok, decide_eq_true_eq, pure_eq_ok, Except.ok.injEq]
  exact ⟨fun ⟨_, h, ht⟩ => ⟨h, ht.symm⟩, fun ⟨h, ht⟩ => ⟨(), h, ht.symm⟩⟩

theorem writeBits_of_not {s : State} {code : List Bool} (h : ¬here s + code.length ≤ bufferBits s) :
    writeBits s code = .error (.raise .bitstreamExhausted (here s)) := by
  simp [writeBits, h]

/-- The bits at `pos` when they hold `code`. -/
theorem streamBits_of_holds {s : State} {pos : Nat} {code : List Bool}
    (h : ∀ i (hi : i < code.length), cellRead s.bsb (pos + i) = some code[i]) :
    streamBits s pos code.length = .ok (bitsValue code) := by
  have : readEach (streamBit s) (List.range' pos code.length) = .ok code := by
    rw [readEach_eq_ok, List.forall₂_iff_get]
    refine ⟨by simp, ?_⟩
    intro i h1 h2
    simpa [streamBit_eq_ok] using h i h2
  simp [streamBits, this]

end Sys2Proof.Machine
end

