-- ==== Sys2Proof/Laws/PerInstr.lean ====
section
/-! SUPPORT. The per-command family of LAWS.json: `Opcode`, the opcode bits of every command's word against
the opcode map (30_encoding.md R172). -/

namespace Sys2Proof.Laws.Opcode

open Sys2Proof

/-- The opcode of the command's row in the opcode map (30_encoding.md R172). -/
def opcodeOf : Instr → Nat
  | .nop => 0x00
  | .setr _ _ => 0x01
  | .setrh _ _ => 0x02
  | .gridclr => 0x03
  | .qpdelta => 0x04
  | .bsrd _ => 0x08
  | .bspeek _ => 0x09
  | .bsrdue => 0x0A
  | .bsrdse => 0x0B
  | .bswr _ => 0x0C
  | .bswrue => 0x0D
  | .bswrse => 0x0E
  | .bsalign _ => 0x0F
  | .bstrail => 0x10
  | .bsmore => 0x11
  | .bsrdme _ => 0x12
  | .bswrme _ => 0x13
  | .cavlcdec _ _ _ _ _ _ _ => 0x18
  | .cavlcenc _ _ _ _ _ _ _ => 0x19
  | .ncset _ _ _ _ => 0x1A
  | .ncget _ _ _ _ => 0x1B
  | .zzfwd _ _ _ => 0x20
  | .zzinv _ _ _ => 0x21
  | .fcore _ _ => 0x22
  | .fquant _ _ _ => 0x23
  | .fhadq _ _ => 0x24
  | .iquant _ _ _ => 0x25
  | .idct _ _ => 0x26
  | .ihadq _ _ => 0x27
  | .pres _ _ _ => 0x28
  | .emov _ _ _ _ _ _ => 0x29
  | .zero _ => 0x2A
  | .ipred _ => 0x30
  | .ipsel => 0x31
  | .rsub _ _ _ => 0x32
  | .recon _ _ _ => 0x33
  | .rcopy => 0x34
  | .mvpred => 0x38
  | .mvset _ => 0x39
  | .mcopy => 0x3A

/-- The opcode field, bits 31:26 (30_encoding.md R161), of the command's word is that of its row. -/
def Statement (i : Instr) : Prop := bits (encode i) 31 26 = opcodeOf i

/-- The opcode field of a word made of an opcode and the bits below it. -/
theorem bits_wordOf {op rest : Nat} (ho : op < 64) (hr : rest < 2 ^ 26) : bits (wordOf op rest) 31 26 = op := by
  simp only [bits, wordOf, BitVec.toNat_ofNat]
  omega

theorem mncCode_lt (m : Mnc) : mncCode m < 3 := by cases m <;> decide

theorem planeCode_lt (p : Option Plane) : planeCode p < 4 := by
  rcases p with _ | p
  · decide
  · cases p <;> decide

theorem restC_lt (slot : Slot) (mnc : Mnc) (plane : Option Plane) (ncsel : Bool) (bx byy : Two) (wb : Bool) :
    restC slot mnc plane ncsel bx byy wb < 2 ^ 26 := by
  have := slot.isLt
  have := mncCode_lt mnc
  have := planeCode_lt plane
  have := ncsel.toNat_lt
  have := bx.isLt
  have := byy.isLt
  have := wb.toNat_lt
  unfold restC
  omega

theorem restT_lt (d src t : Slot) (flag : Bool) : restT d src t flag < 2 ^ 26 := by
  have := d.isLt
  have := src.isLt
  have := t.isLt
  have := flag.toNat_lt
  unfold restT
  omega

theorem restP_lt (slot : Slot) (bx byy : Two) : restP slot bx byy < 2 ^ 26 := by
  have := slot.isLt
  have := bx.isLt
  have := byy.isLt
  unfold restP
  omega

/-- A command whose word is made of its row's opcode and the bits below it. -/
theorem statement_of {i : Instr} {op rest : Nat} (he : encode i = wordOf op rest) (hm : opcodeOf i = op)
    (hr : rest < 2 ^ 26) : Statement i := by
  unfold Statement
  have : op < 64 := by rw [← hm]; cases i <;> simp [opcodeOf]
  rw [he, hm, bits_wordOf this hr]

theorem nop : Statement .nop := statement_of rfl rfl (by decide)
theorem setr (rsel : BitVec 6) (imm16 : BitVec 16) : Statement (.setr rsel imm16) :=
  statement_of rfl rfl (by have := rsel.isLt; have := imm16.isLt; omega)
theorem setrh (rsel : BitVec 6) (imm16 : BitVec 16) : Statement (.setrh rsel imm16) :=
  statement_of rfl rfl (by have := rsel.isLt; have := imm16.isLt; omega)
theorem gridclr : Statement .gridclr := statement_of rfl rfl (by decide)
theorem qpdelta : Statement .qpdelta := statement_of rfl rfl (by decide)
theorem bsrd (n : BitVec 6) : Statement (.bsrd n) := statement_of rfl rfl (by have := n.isLt; omega)
theorem bspeek (n : BitVec 6) : Statement (.bspeek n) := statement_of rfl rfl (by have := n.isLt; omega)
theorem bsrdue : Statement .bsrdue := statement_of rfl rfl (by decide)
theorem bsrdse : Statement .bsrdse := statement_of rfl rfl (by decide)
theorem bswr (n : BitVec 6) : Statement (.bswr n) := statement_of rfl rfl (by have := n.isLt; omega)
theorem bswrue : Statement .bswrue := statement_of rfl rfl (by decide)
theorem bswrse : Statement .bswrse := statement_of rfl rfl (by decide)
theorem bsalign (fill : Bool) : Statement (.bsalign fill) := statement_of rfl rfl (by have := fill.toNat_lt; omega)
theorem bstrail : Statement .bstrail := statement_of rfl rfl (by decide)
theorem bsmore : Statement .bsmore := statement_of rfl rfl (by decide)
theorem bsrdme (intra : Bool) : Statement (.bsrdme intra) := statement_of rfl rfl (by have := intra.toNat_lt; omega)
theorem bswrme (intra : Bool) : Statement (.bswrme intra) := statement_of rfl rfl (by have := intra.toNat_lt; omega)
theorem cavlcdec (slot : Slot) (mnc : Mnc) (plane : Option Plane) (ncsel : Bool) (bx byy : Two)
    (wb : Bool) : Statement (.cavlcdec slot mnc plane ncsel bx byy wb) :=
  statement_of rfl rfl (restC_lt ..)
theorem cavlcenc (slot : Slot) (mnc : Mnc) (plane : Option Plane) (ncsel : Bool) (bx byy : Two)
    (wb : Bool) : Statement (.cavlcenc slot mnc plane ncsel bx byy wb) :=
  statement_of rfl rfl (restC_lt ..)
theorem ncset (plane : Option Plane) (bx byy : Two) (all : Bool) : Statement (.ncset plane bx byy all) :=
  statement_of rfl rfl (restC_lt ..)
theorem ncget (plane : Option Plane) (bx byy : Two) (raw : Bool) : Statement (.ncget plane bx byy raw) :=
  statement_of rfl rfl (restC_lt ..)
theorem zzfwd (d src : Slot) (flag : Bool) : Statement (.zzfwd d src flag) := statement_of rfl rfl (restT_lt ..)
theorem zzinv (d src : Slot) (flag : Bool) : Statement (.zzinv d src flag) := statement_of rfl rfl (restT_lt ..)
theorem fcore (d src : Slot) : Statement (.fcore d src) := statement_of rfl rfl (restT_lt ..)
theorem fquant (d src : Slot) (ac : Bool) : Statement (.fquant d src ac) := statement_of rfl rfl (restT_lt ..)
theorem fhadq (d src : Slot) : Statement (.fhadq d src) := statement_of rfl rfl (restT_lt ..)
theorem iquant (d src : Slot) (dc : Bool) : Statement (.iquant d src dc) := statement_of rfl rfl (restT_lt ..)
theorem idct (d src : Slot) : Statement (.idct d src) := statement_of rfl rfl (restT_lt ..)
theorem ihadq (d src : Slot) : Statement (.ihadq d src) := statement_of rfl rfl (restT_lt ..)
theorem pres (d src t : Slot) : Statement (.pres d src t) := statement_of rfl rfl (restT_lt ..)
theorem emov (d src : Slot) (dr dc sr sc : Two) : Statement (.emov d src dr dc sr sc) :=
  statement_of rfl rfl (by
    have := d.isLt; have := src.isLt; have := dr.isLt; have := dc.isLt; have := sr.isLt; have := sc.isLt
    simp [restT]; omega)
theorem zero (d : Slot) : Statement (.zero d) := statement_of rfl rfl (restT_lt ..)
theorem ipred (mode : Two) : Statement (.ipred mode) := statement_of rfl rfl (by have := mode.isLt; omega)
theorem ipsel : Statement .ipsel := statement_of rfl rfl (by decide)
theorem rsub (slot : Slot) (bx byy : Two) : Statement (.rsub slot bx byy) := statement_of rfl rfl (restP_lt ..)
theorem recon (slot : Slot) (bx byy : Two) : Statement (.recon slot bx byy) := statement_of rfl rfl (restP_lt ..)
theorem rcopy : Statement .rcopy := statement_of rfl rfl (by decide)
theorem mvpred : Statement .mvpred := statement_of rfl rfl (by decide)
theorem mvset (res : Bool) : Statement (.mvset res) := statement_of rfl rfl (by have := res.toNat_lt; omega)
theorem mcopy : Statement .mcopy := statement_of rfl rfl (by decide)

end Sys2Proof.Laws.Opcode
end

