-- ==== Sys2Proof/Laws/Reading.lean ====
section
/-! SUPPORT. The small lemmas of the statements' vocabulary for reading a block (Safety.lean): where an element's
reading ends, and the stream up to `BITLEN` bit by bit. -/

namespace Sys2Proof.Machine

@[simp] theorem Reading.from_value {α : Type} (v : α) (bits pos : Nat) :
    (Reading.value v bits).from pos = .ok (v, pos + bits) := rfl
@[simp] theorem Reading.from_error {α : Type} (e : ErrCode) (pos : Nat) :
    (Reading.error e : Reading α).from pos = raise e pos := rfl
@[simp] theorem Reading.from_unwritten {α : Type} (pos : Nat) :
    (Reading.unwritten : Reading α).from pos = .error (.fault .undefinedRead) := rfl

@[simp] theorem length_bitsFrom (s : State) (pos : Nat) : (s.bitsFrom pos).length = s.bitlen.toNat - pos := by
  simp [State.bitsFrom]

/-- Beyond `BITLEN` the stream has no bits. -/
theorem bitsFrom_nil {s : State} {pos : Nat} (h : s.bitlen.toNat ≤ pos) : s.bitsFrom pos = [] := by
  simp [State.bitsFrom, Nat.sub_eq_zero_of_le h]

/-- Before `BITLEN` the stream is its next bit and what follows. -/
theorem bitsFrom_cons {s : State} {pos : Nat} (h : pos < s.bitlen.toNat) :
    s.bitsFrom pos = cellRead s.bsb pos :: s.bitsFrom (pos + 1) := by
  obtain ⟨n, hn⟩ : ∃ n, s.bitlen.toNat - pos = n + 1 := ⟨s.bitlen.toNat - pos - 1, by omega⟩
  have hm : s.bitlen.toNat - (pos + 1) = n := by omega
  simp [State.bitsFrom, hn, hm, List.range_succ_eq_map, Function.comp_def, Nat.add_assoc, Nat.add_comm 1]

/-- A bit string that the stream holds before `BITLEN` is what the stream begins with. -/
theorem bitsFrom_of_streamHolds {s : State} {pos : Nat} {code : List Bool} (h : s.streamHolds pos code)
    (hlen : pos + code.length ≤ s.bitlen.toNat) : s.bitsFrom pos = code.map some ++ s.bitsFrom (pos + code.length) := by
  induction code generalizing pos with
  | nil => simp
  | cons b code ih =>
    simp only [List.length_cons] at hlen
    rw [bitsFrom_cons (by omega), ih (pos := pos + 1) ?_ (by omega)]
    · have h0 : cellRead s.bsb pos = some b := h 0 (by simp)
      simp [h0, Nat.add_assoc, Nat.add_comm 1]
    · intro i hi
      have := h (i + 1) (by simpa using hi)
      simpa [Nat.add_assoc, Nat.add_comm 1] using this

/-- Dropping the first bits of the stream moves the position. -/
theorem drop_bitsFrom (s : State) (pos n : Nat) : (s.bitsFrom pos).drop n = s.bitsFrom (pos + n) := by
  apply List.ext_getElem
  · simp
    omega
  · intro i h₁ h₂
    simp [State.bitsFrom, Nat.add_assoc]

end Sys2Proof.Machine
end

