-- ==== Sys2Proof/Laws/State.lean ====
section
/-! SUPPORT. Every field after every shared update of the state, each true by unfolding the update once. -/

namespace Sys2Proof.Machine

/-! `errorEnd` -/

@[simp] theorem errorEnd_params (s : State) (e : ErrCode) (info : Nat) :
    (errorEnd s e info).params = s.params := rfl
@[simp] theorem errorEnd_busy (s : State) (e : ErrCode) (info : Nat) : (errorEnd s e info).busy = false := rfl
@[simp] theorem errorEnd_done (s : State) (e : ErrCode) (info : Nat) : (errorEnd s e info).done = false := rfl
@[simp] theorem errorEnd_err (s : State) (e : ErrCode) (info : Nat) : (errorEnd s e info).err = true := rfl
@[simp] theorem errorEnd_drop (s : State) (e : ErrCode) (info : Nat) :
    (errorEnd s e info).drop = s.drop := rfl
@[simp] theorem errorEnd_errcode (s : State) (e : ErrCode) (info : Nat) :
    (errorEnd s e info).errcode = e := rfl
@[simp] theorem errorEnd_cmdlatch (s : State) (e : ErrCode) (info : Nat) :
    (errorEnd s e info).cmdlatch = s.cmdlatch := rfl
@[simp] theorem errorEnd_errcmd (s : State) (e : ErrCode) (info : Nat) :
    (errorEnd s e info).errcmd = s.cmdlatch := rfl
@[simp] theorem errorEnd_errpos (s : State) (e : ErrCode) (info : Nat) :
    (errorEnd s e info).errpos = BitVec.ofNat 32 info := rfl
@[simp] theorem errorEnd_res (s : State) (e : ErrCode) (info : Nat) : (errorEnd s e info).res = s.res := rfl
@[simp] theorem errorEnd_opr (s : State) (e : ErrCode) (info : Nat) : (errorEnd s e info).opr = s.opr := rfl
@[simp] theorem errorEnd_qp (s : State) (e : ErrCode) (info : Nat) : (errorEnd s e info).qp = s.qp := rfl
@[simp] theorem errorEnd_sliceqp (s : State) (e : ErrCode) (info : Nat) :
    (errorEnd s e info).sliceqp = s.sliceqp := rfl
@[simp] theorem errorEnd_bitpos (s : State) (e : ErrCode) (info : Nat) :
    (errorEnd s e info).bitpos = s.bitpos := rfl
@[simp] theorem errorEnd_bitlen (s : State) (e : ErrCode) (info : Nat) :
    (errorEnd s e info).bitlen = s.bitlen := rfl
@[simp] theorem errorEnd_picdim (s : State) (e : ErrCode) (info : Nat) :
    (errorEnd s e info).picdim = s.picdim := rfl
@[simp] theorem errorEnd_mbpos (s : State) (e : ErrCode) (info : Nat) :
    (errorEnd s e info).mbpos = s.mbpos := rfl
@[simp] theorem errorEnd_ncreg (s : State) (e : ErrCode) (info : Nat) :
    (errorEnd s e info).ncreg = s.ncreg := rfl
@[simp] theorem errorEnd_cvstat (s : State) (e : ErrCode) (info : Nat) :
    (errorEnd s e info).cvstat = s.cvstat := rfl
@[simp] theorem errorEnd_sae (s : State) (e : ErrCode) (info : Nat) : (errorEnd s e info).sae = s.sae := rfl
@[simp] theorem errorEnd_cb (s : State) (e : ErrCode) (info : Nat) : (errorEnd s e info).cb = s.cb := rfl
@[simp] theorem errorEnd_pred (s : State) (e : ErrCode) (info : Nat) :
    (errorEnd s e info).pred = s.pred := rfl
@[simp] theorem errorEnd_src (s : State) (e : ErrCode) (info : Nat) : (errorEnd s e info).src = s.src := rfl
@[simp] theorem errorEnd_bsb (s : State) (e : ErrCode) (info : Nat) : (errorEnd s e info).bsb = s.bsb := rfl
@[simp] theorem errorEnd_ncg (s : State) (e : ErrCode) (info : Nat) : (errorEnd s e info).ncg = s.ncg := rfl
@[simp] theorem errorEnd_mvg (s : State) (e : ErrCode) (info : Nat) : (errorEnd s e info).mvg = s.mvg := rfl
@[simp] theorem errorEnd_recFrame (s : State) (e : ErrCode) (info : Nat) :
    (errorEnd s e info).recFrame = s.recFrame := rfl
@[simp] theorem errorEnd_refFrame (s : State) (e : ErrCode) (info : Nat) :
    (errorEnd s e info).refFrame = s.refFrame := rfl
@[simp] theorem errorEnd_host (s : State) (e : ErrCode) (info : Nat) :
    (errorEnd s e info).host = s.host := rfl
@[simp] theorem errorEnd_hostData (s : State) (e : ErrCode) (info : Nat) :
    (errorEnd s e info).hostData = s.hostData := rfl
@[simp] theorem errorEnd_draws (s : State) (e : ErrCode) (info : Nat) :
    (errorEnd s e info).draws = s.draws := rfl

/-! `complete` -/

@[simp] theorem complete_params (s : State) : (complete s).params = s.params := rfl
@[simp] theorem complete_busy (s : State) : (complete s).busy = false := rfl
@[simp] theorem complete_done (s : State) : (complete s).done = true := rfl
@[simp] theorem complete_err (s : State) : (complete s).err = s.err := rfl
@[simp] theorem complete_drop (s : State) : (complete s).drop = s.drop := rfl
@[simp] theorem complete_errcode (s : State) : (complete s).errcode = s.errcode := rfl
@[simp] theorem complete_cmdlatch (s : State) : (complete s).cmdlatch = s.cmdlatch := rfl
@[simp] theorem complete_errcmd (s : State) : (complete s).errcmd = s.errcmd := rfl
@[simp] theorem complete_errpos (s : State) : (complete s).errpos = s.errpos := rfl
@[simp] theorem complete_res (s : State) : (complete s).res = s.res := rfl
@[simp] theorem complete_opr (s : State) : (complete s).opr = s.opr := rfl
@[simp] theorem complete_qp (s : State) : (complete s).qp = s.qp := rfl
@[simp] theorem complete_sliceqp (s : State) : (complete s).sliceqp = s.sliceqp := rfl
@[simp] theorem complete_bitpos (s : State) : (complete s).bitpos = s.bitpos := rfl
@[simp] theorem complete_bitlen (s : State) : (complete s).bitlen = s.bitlen := rfl
@[simp] theorem complete_picdim (s : State) : (complete s).picdim = s.picdim := rfl
@[simp] theorem complete_mbpos (s : State) : (complete s).mbpos = s.mbpos := rfl
@[simp] theorem complete_ncreg (s : State) : (complete s).ncreg = s.ncreg := rfl
@[simp] theorem complete_cvstat (s : State) : (complete s).cvstat = s.cvstat := rfl
@[simp] theorem complete_sae (s : State) : (complete s).sae = s.sae := rfl
@[simp] theorem complete_cb (s : State) : (complete s).cb = s.cb := rfl
@[simp] theorem complete_pred (s : State) : (complete s).pred = s.pred := rfl
@[simp] theorem complete_src (s : State) : (complete s).src = s.src := rfl
@[simp] theorem complete_bsb (s : State) : (complete s).bsb = s.bsb := rfl
@[simp] theorem complete_ncg (s : State) : (complete s).ncg = s.ncg := rfl
@[simp] theorem complete_mvg (s : State) : (complete s).mvg = s.mvg := rfl
@[simp] theorem complete_recFrame (s : State) : (complete s).recFrame = s.recFrame := rfl
@[simp] theorem complete_refFrame (s : State) : (complete s).refFrame = s.refFrame := rfl
@[simp] theorem complete_host (s : State) : (complete s).host = s.host := rfl
@[simp] theorem complete_hostData (s : State) : (complete s).hostData = s.hostData := rfl
@[simp] theorem complete_draws (s : State) : (complete s).draws = s.draws := rfl

/-! `errorClear` -/

@[simp] theorem errorClear_params (s : State) : (errorClear s).params = s.params := rfl
@[simp] theorem errorClear_busy (s : State) : (errorClear s).busy = s.busy := rfl
@[simp] theorem errorClear_done (s : State) : (errorClear s).done = s.done := rfl
@[simp] theorem errorClear_err (s : State) : (errorClear s).err = false := rfl
@[simp] theorem errorClear_drop (s : State) : (errorClear s).drop = s.drop := rfl
@[simp] theorem errorClear_errcode (s : State) : (errorClear s).errcode = ErrCode.none := rfl
@[simp] theorem errorClear_cmdlatch (s : State) : (errorClear s).cmdlatch = s.cmdlatch := rfl
@[simp] theorem errorClear_errcmd (s : State) : (errorClear s).errcmd = s.errcmd := rfl
@[simp] theorem errorClear_errpos (s : State) : (errorClear s).errpos = s.errpos := rfl
@[simp] theorem errorClear_res (s : State) : (errorClear s).res = s.res := rfl
@[simp] theorem errorClear_opr (s : State) : (errorClear s).opr = s.opr := rfl
@[simp] theorem errorClear_qp (s : State) : (errorClear s).qp = s.qp := rfl
@[simp] theorem errorClear_sliceqp (s : State) : (errorClear s).sliceqp = s.sliceqp := rfl
@[simp] theorem errorClear_bitpos (s : State) : (errorClear s).bitpos = s.bitpos := rfl
@[simp] theorem errorClear_bitlen (s : State) : (errorClear s).bitlen = s.bitlen := rfl
@[simp] theorem errorClear_picdim (s : State) : (errorClear s).picdim = s.picdim := rfl
@[simp] theorem errorClear_mbpos (s : State) : (errorClear s).mbpos = s.mbpos := rfl
@[simp] theorem errorClear_ncreg (s : State) : (errorClear s).ncreg = s.ncreg := rfl
@[simp] theorem errorClear_cvstat (s : State) : (errorClear s).cvstat = s.cvstat := rfl
@[simp] theorem errorClear_sae (s : State) : (errorClear s).sae = s.sae := rfl
@[simp] theorem errorClear_cb (s : State) : (errorClear s).cb = s.cb := rfl
@[simp] theorem errorClear_pred (s : State) : (errorClear s).pred = s.pred := rfl
@[simp] theorem errorClear_src (s : State) : (errorClear s).src = s.src := rfl
@[simp] theorem errorClear_bsb (s : State) : (errorClear s).bsb = s.bsb := rfl
@[simp] theorem errorClear_ncg (s : State) : (errorClear s).ncg = s.ncg := rfl
@[simp] theorem errorClear_mvg (s : State) : (errorClear s).mvg = s.mvg := rfl
@[simp] theorem errorClear_recFrame (s : State) : (errorClear s).recFrame = s.recFrame := rfl
@[simp] theorem errorClear_refFrame (s : State) : (errorClear s).refFrame = s.refFrame := rfl
@[simp] theorem errorClear_host (s : State) : (errorClear s).host = s.host := rfl
@[simp] theorem errorClear_hostData (s : State) : (errorClear s).hostData = s.hostData := rfl
@[simp] theorem errorClear_draws (s : State) : (errorClear s).draws = s.draws := rfl

/-! `markDropped` -/

@[simp] theorem markDropped_params (s : State) : (markDropped s).params = s.params := rfl
@[simp] theorem markDropped_busy (s : State) : (markDropped s).busy = s.busy := rfl
@[simp] theorem markDropped_done (s : State) : (markDropped s).done = s.done := rfl
@[simp] theorem markDropped_err (s : State) : (markDropped s).err = s.err := rfl
@[simp] theorem markDropped_drop (s : State) : (markDropped s).drop = true := rfl
@[simp] theorem markDropped_errcode (s : State) : (markDropped s).errcode = s.errcode := rfl
@[simp] theorem markDropped_cmdlatch (s : State) : (markDropped s).cmdlatch = s.cmdlatch := rfl
@[simp] theorem markDropped_errcmd (s : State) : (markDropped s).errcmd = s.errcmd := rfl
@[simp] theorem markDropped_errpos (s : State) : (markDropped s).errpos = s.errpos := rfl
@[simp] theorem markDropped_res (s : State) : (markDropped s).res = s.res := rfl
@[simp] theorem markDropped_opr (s : State) : (markDropped s).opr = s.opr := rfl
@[simp] theorem markDropped_qp (s : State) : (markDropped s).qp = s.qp := rfl
@[simp] theorem markDropped_sliceqp (s : State) : (markDropped s).sliceqp = s.sliceqp := rfl
@[simp] theorem markDropped_bitpos (s : State) : (markDropped s).bitpos = s.bitpos := rfl
@[simp] theorem markDropped_bitlen (s : State) : (markDropped s).bitlen = s.bitlen := rfl
@[simp] theorem markDropped_picdim (s : State) : (markDropped s).picdim = s.picdim := rfl
@[simp] theorem markDropped_mbpos (s : State) : (markDropped s).mbpos = s.mbpos := rfl
@[simp] theorem markDropped_ncreg (s : State) : (markDropped s).ncreg = s.ncreg := rfl
@[simp] theorem markDropped_cvstat (s : State) : (markDropped s).cvstat = s.cvstat := rfl
@[simp] theorem markDropped_sae (s : State) : (markDropped s).sae = s.sae := rfl
@[simp] theorem markDropped_cb (s : State) : (markDropped s).cb = s.cb := rfl
@[simp] theorem markDropped_pred (s : State) : (markDropped s).pred = s.pred := rfl
@[simp] theorem markDropped_src (s : State) : (markDropped s).src = s.src := rfl
@[simp] theorem markDropped_bsb (s : State) : (markDropped s).bsb = s.bsb := rfl
@[simp] theorem markDropped_ncg (s : State) : (markDropped s).ncg = s.ncg := rfl
@[simp] theorem markDropped_mvg (s : State) : (markDropped s).mvg = s.mvg := rfl
@[simp] theorem markDropped_recFrame (s : State) : (markDropped s).recFrame = s.recFrame := rfl
@[simp] theorem markDropped_refFrame (s : State) : (markDropped s).refFrame = s.refFrame := rfl
@[simp] theorem markDropped_host (s : State) : (markDropped s).host = s.host := rfl
@[simp] theorem markDropped_hostData (s : State) : (markDropped s).hostData = s.hostData := rfl
@[simp] theorem markDropped_draws (s : State) : (markDropped s).draws = s.draws := rfl

/-! `acceptCommand` -/

@[simp] theorem acceptCommand_params (s : State) (w : Word) : (acceptCommand s w).params = s.params := rfl
@[simp] theorem acceptCommand_busy (s : State) (w : Word) : (acceptCommand s w).busy = true := rfl
@[simp] theorem acceptCommand_done (s : State) (w : Word) : (acceptCommand s w).done = false := rfl
@[simp] theorem acceptCommand_err (s : State) (w : Word) : (acceptCommand s w).err = s.err := rfl
@[simp] theorem acceptCommand_drop (s : State) (w : Word) : (acceptCommand s w).drop = s.drop := rfl
@[simp] theorem acceptCommand_errcode (s : State) (w : Word) : (acceptCommand s w).errcode = s.errcode := rfl
@[simp] theorem acceptCommand_cmdlatch (s : State) (w : Word) : (acceptCommand s w).cmdlatch = w := rfl
@[simp] theorem acceptCommand_errcmd (s : State) (w : Word) : (acceptCommand s w).errcmd = s.errcmd := rfl
@[simp] theorem acceptCommand_errpos (s : State) (w : Word) : (acceptCommand s w).errpos = s.errpos := rfl
@[simp] theorem acceptCommand_res (s : State) (w : Word) : (acceptCommand s w).res = s.res := rfl
@[simp] theorem acceptCommand_opr (s : State) (w : Word) : (acceptCommand s w).opr = s.opr := rfl
@[simp] theorem acceptCommand_qp (s : State) (w : Word) : (acceptCommand s w).qp = s.qp := rfl
@[simp] theorem acceptCommand_sliceqp (s : State) (w : Word) : (acceptCommand s w).sliceqp = s.sliceqp := rfl
@[simp] theorem acceptCommand_bitpos (s : State) (w : Word) : (acceptCommand s w).bitpos = s.bitpos := rfl
@[simp] theorem acceptCommand_bitlen (s : State) (w : Word) : (acceptCommand s w).bitlen = s.bitlen := rfl
@[simp] theorem acceptCommand_picdim (s : State) (w : Word) : (acceptCommand s w).picdim = s.picdim := rfl
@[simp] theorem acceptCommand_mbpos (s : State) (w : Word) : (acceptCommand s w).mbpos = s.mbpos := rfl
@[simp] theorem acceptCommand_ncreg (s : State) (w : Word) : (acceptCommand s w).ncreg = s.ncreg := rfl
@[simp] theorem acceptCommand_cvstat (s : State) (w : Word) : (acceptCommand s w).cvstat = s.cvstat := rfl
@[simp] theorem acceptCommand_sae (s : State) (w : Word) : (acceptCommand s w).sae = s.sae := rfl
@[simp] theorem acceptCommand_cb (s : State) (w : Word) : (acceptCommand s w).cb = s.cb := rfl
@[simp] theorem acceptCommand_pred (s : State) (w : Word) : (acceptCommand s w).pred = s.pred := rfl
@[simp] theorem acceptCommand_src (s : State) (w : Word) : (acceptCommand s w).src = s.src := rfl
@[simp] theorem acceptCommand_bsb (s : State) (w : Word) : (acceptCommand s w).bsb = s.bsb := rfl
@[simp] theorem acceptCommand_ncg (s : State) (w : Word) : (acceptCommand s w).ncg = s.ncg := rfl
@[simp] theorem acceptCommand_mvg (s : State) (w : Word) : (acceptCommand s w).mvg = s.mvg := rfl
@[simp] theorem acceptCommand_recFrame (s : State) (w : Word) :
    (acceptCommand s w).recFrame = s.recFrame := rfl
@[simp] theorem acceptCommand_refFrame (s : State) (w : Word) :
    (acceptCommand s w).refFrame = s.refFrame := rfl
@[simp] theorem acceptCommand_host (s : State) (w : Word) : (acceptCommand s w).host = s.host := rfl
@[simp] theorem acceptCommand_hostData (s : State) (w : Word) :
    (acceptCommand s w).hostData = s.hostData := rfl
@[simp] theorem acceptCommand_draws (s : State) (w : Word) : (acceptCommand s w).draws = s.draws := rfl

/-! `writeSlot` -/

@[simp] theorem writeSlot_params (s : State) (slot : Slot) (b : Block) :
    (writeSlot s slot b).params = s.params := by simp only [writeSlot]
@[simp] theorem writeSlot_busy (s : State) (slot : Slot) (b : Block) :
    (writeSlot s slot b).busy = s.busy := by simp only [writeSlot]
@[simp] theorem writeSlot_done (s : State) (slot : Slot) (b : Block) :
    (writeSlot s slot b).done = s.done := by simp only [writeSlot]
@[simp] theorem writeSlot_err (s : State) (slot : Slot) (b : Block) : (writeSlot s slot b).err = s.err := by simp only [writeSlot]
@[simp] theorem writeSlot_drop (s : State) (slot : Slot) (b : Block) :
    (writeSlot s slot b).drop = s.drop := by simp only [writeSlot]
@[simp] theorem writeSlot_errcode (s : State) (slot : Slot) (b : Block) :
    (writeSlot s slot b).errcode = s.errcode := by simp only [writeSlot]
@[simp] theorem writeSlot_cmdlatch (s : State) (slot : Slot) (b : Block) :
    (writeSlot s slot b).cmdlatch = s.cmdlatch := by simp only [writeSlot]
@[simp] theorem writeSlot_errcmd (s : State) (slot : Slot) (b : Block) :
    (writeSlot s slot b).errcmd = s.errcmd := by simp only [writeSlot]
@[simp] theorem writeSlot_errpos (s : State) (slot : Slot) (b : Block) :
    (writeSlot s slot b).errpos = s.errpos := by simp only [writeSlot]
@[simp] theorem writeSlot_res (s : State) (slot : Slot) (b : Block) : (writeSlot s slot b).res = s.res := by simp only [writeSlot]
@[simp] theorem writeSlot_opr (s : State) (slot : Slot) (b : Block) : (writeSlot s slot b).opr = s.opr := by simp only [writeSlot]
@[simp] theorem writeSlot_qp (s : State) (slot : Slot) (b : Block) : (writeSlot s slot b).qp = s.qp := by simp only [writeSlot]
@[simp] theorem writeSlot_sliceqp (s : State) (slot : Slot) (b : Block) :
    (writeSlot s slot b).sliceqp = s.sliceqp := by simp only [writeSlot]
@[simp] theorem writeSlot_bitpos (s : State) (slot : Slot) (b : Block) :
    (writeSlot s slot b).bitpos = s.bitpos := by simp only [writeSlot]
@[simp] theorem writeSlot_bitlen (s : State) (slot : Slot) (b : Block) :
    (writeSlot s slot b).bitlen = s.bitlen := by simp only [writeSlot]
@[simp] theorem writeSlot_picdim (s : State) (slot : Slot) (b : Block) :
    (writeSlot s slot b).picdim = s.picdim := by simp only [writeSlot]
@[simp] theorem writeSlot_mbpos (s : State) (slot : Slot) (b : Block) :
    (writeSlot s slot b).mbpos = s.mbpos := by simp only [writeSlot]
@[simp] theorem writeSlot_ncreg (s : State) (slot : Slot) (b : Block) :
    (writeSlot s slot b).ncreg = s.ncreg := by simp only [writeSlot]
@[simp] theorem writeSlot_cvstat (s : State) (slot : Slot) (b : Block) :
    (writeSlot s slot b).cvstat = s.cvstat := by simp only [writeSlot]
@[simp] theorem writeSlot_sae (s : State) (slot : Slot) (b : Block) : (writeSlot s slot b).sae = s.sae := by simp only [writeSlot]
@[simp] theorem writeSlot_cb (s : State) (slot : Slot) (b : Block) :
    (writeSlot s slot b).cb = cellWriteAll s.cb (slotEntries slot b) := by simp only [writeSlot]
@[simp] theorem writeSlot_pred (s : State) (slot : Slot) (b : Block) :
    (writeSlot s slot b).pred = s.pred := by simp only [writeSlot]
@[simp] theorem writeSlot_src (s : State) (slot : Slot) (b : Block) : (writeSlot s slot b).src = s.src := by simp only [writeSlot]
@[simp] theorem writeSlot_bsb (s : State) (slot : Slot) (b : Block) : (writeSlot s slot b).bsb = s.bsb := by simp only [writeSlot]
@[simp] theorem writeSlot_ncg (s : State) (slot : Slot) (b : Block) : (writeSlot s slot b).ncg = s.ncg := by simp only [writeSlot]
@[simp] theorem writeSlot_mvg (s : State) (slot : Slot) (b : Block) : (writeSlot s slot b).mvg = s.mvg := by simp only [writeSlot]
@[simp] theorem writeSlot_recFrame (s : State) (slot : Slot) (b : Block) :
    (writeSlot s slot b).recFrame = s.recFrame := by simp only [writeSlot]
@[simp] theorem writeSlot_refFrame (s : State) (slot : Slot) (b : Block) :
    (writeSlot s slot b).refFrame = s.refFrame := by simp only [writeSlot]
@[simp] theorem writeSlot_host (s : State) (slot : Slot) (b : Block) :
    (writeSlot s slot b).host = s.host := by simp only [writeSlot]
@[simp] theorem writeSlot_hostData (s : State) (slot : Slot) (b : Block) :
    (writeSlot s slot b).hostData = s.hostData := by simp only [writeSlot]
@[simp] theorem writeSlot_draws (s : State) (slot : Slot) (b : Block) :
    (writeSlot s slot b).draws = s.draws := by simp only [writeSlot]

/-! `writePred` -/

@[simp] theorem writePred_params (s : State) (p : Samples) : (writePred s p).params = s.params := by simp only [writePred]
@[simp] theorem writePred_busy (s : State) (p : Samples) : (writePred s p).busy = s.busy := by simp only [writePred]
@[simp] theorem writePred_done (s : State) (p : Samples) : (writePred s p).done = s.done := by simp only [writePred]
@[simp] theorem writePred_err (s : State) (p : Samples) : (writePred s p).err = s.err := by simp only [writePred]
@[simp] theorem writePred_drop (s : State) (p : Samples) : (writePred s p).drop = s.drop := by simp only [writePred]
@[simp] theorem writePred_errcode (s : State) (p : Samples) : (writePred s p).errcode = s.errcode := by simp only [writePred]
@[simp] theorem writePred_cmdlatch (s : State) (p : Samples) : (writePred s p).cmdlatch = s.cmdlatch := by simp only [writePred]
@[simp] theorem writePred_errcmd (s : State) (p : Samples) : (writePred s p).errcmd = s.errcmd := by simp only [writePred]
@[simp] theorem writePred_errpos (s : State) (p : Samples) : (writePred s p).errpos = s.errpos := by simp only [writePred]
@[simp] theorem writePred_res (s : State) (p : Samples) : (writePred s p).res = s.res := by simp only [writePred]
@[simp] theorem writePred_opr (s : State) (p : Samples) : (writePred s p).opr = s.opr := by simp only [writePred]
@[simp] theorem writePred_qp (s : State) (p : Samples) : (writePred s p).qp = s.qp := by simp only [writePred]
@[simp] theorem writePred_sliceqp (s : State) (p : Samples) : (writePred s p).sliceqp = s.sliceqp := by simp only [writePred]
@[simp] theorem writePred_bitpos (s : State) (p : Samples) : (writePred s p).bitpos = s.bitpos := by simp only [writePred]
@[simp] theorem writePred_bitlen (s : State) (p : Samples) : (writePred s p).bitlen = s.bitlen := by simp only [writePred]
@[simp] theorem writePred_picdim (s : State) (p : Samples) : (writePred s p).picdim = s.picdim := by simp only [writePred]
@[simp] theorem writePred_mbpos (s : State) (p : Samples) : (writePred s p).mbpos = s.mbpos := by simp only [writePred]
@[simp] theorem writePred_ncreg (s : State) (p : Samples) : (writePred s p).ncreg = s.ncreg := by simp only [writePred]
@[simp] theorem writePred_cvstat (s : State) (p : Samples) : (writePred s p).cvstat = s.cvstat := by simp only [writePred]
@[simp] theorem writePred_sae (s : State) (p : Samples) : (writePred s p).sae = s.sae := by simp only [writePred]
@[simp] theorem writePred_cb (s : State) (p : Samples) : (writePred s p).cb = s.cb := by simp only [writePred]
@[simp] theorem writePred_pred (s : State) (p : Samples) :
    (writePred s p).pred = cellWriteAll s.pred ((List.range 256).map (fun k => (k, toByte (p.getD k 0)))) := by simp only [writePred]
@[simp] theorem writePred_src (s : State) (p : Samples) : (writePred s p).src = s.src := by simp only [writePred]
@[simp] theorem writePred_bsb (s : State) (p : Samples) : (writePred s p).bsb = s.bsb := by simp only [writePred]
@[simp] theorem writePred_ncg (s : State) (p : Samples) : (writePred s p).ncg = s.ncg := by simp only [writePred]
@[simp] theorem writePred_mvg (s : State) (p : Samples) : (writePred s p).mvg = s.mvg := by simp only [writePred]
@[simp] theorem writePred_recFrame (s : State) (p : Samples) : (writePred s p).recFrame = s.recFrame := by simp only [writePred]
@[simp] theorem writePred_refFrame (s : State) (p : Samples) : (writePred s p).refFrame = s.refFrame := by simp only [writePred]
@[simp] theorem writePred_host (s : State) (p : Samples) : (writePred s p).host = s.host := by simp only [writePred]
@[simp] theorem writePred_hostData (s : State) (p : Samples) : (writePred s p).hostData = s.hostData := by simp only [writePred]
@[simp] theorem writePred_draws (s : State) (p : Samples) : (writePred s p).draws = s.draws := by simp only [writePred]

/-! `writeRec` -/

@[simp] theorem writeRec_params (s : State) (es : List (Nat × Byte)) :
    (writeRec s es).params = s.params := by simp only [writeRec]
@[simp] theorem writeRec_busy (s : State) (es : List (Nat × Byte)) : (writeRec s es).busy = s.busy := by simp only [writeRec]
@[simp] theorem writeRec_done (s : State) (es : List (Nat × Byte)) : (writeRec s es).done = s.done := by simp only [writeRec]
@[simp] theorem writeRec_err (s : State) (es : List (Nat × Byte)) : (writeRec s es).err = s.err := by simp only [writeRec]
@[simp] theorem writeRec_drop (s : State) (es : List (Nat × Byte)) : (writeRec s es).drop = s.drop := by simp only [writeRec]
@[simp] theorem writeRec_errcode (s : State) (es : List (Nat × Byte)) :
    (writeRec s es).errcode = s.errcode := by simp only [writeRec]
@[simp] theorem writeRec_cmdlatch (s : State) (es : List (Nat × Byte)) :
    (writeRec s es).cmdlatch = s.cmdlatch := by simp only [writeRec]
@[simp] theorem writeRec_errcmd (s : State) (es : List (Nat × Byte)) :
    (writeRec s es).errcmd = s.errcmd := by simp only [writeRec]
@[simp] theorem writeRec_errpos (s : State) (es : List (Nat × Byte)) :
    (writeRec s es).errpos = s.errpos := by simp only [writeRec]
@[simp] theorem writeRec_res (s : State) (es : List (Nat × Byte)) : (writeRec s es).res = s.res := by simp only [writeRec]
@[simp] theorem writeRec_opr (s : State) (es : List (Nat × Byte)) : (writeRec s es).opr = s.opr := by simp only [writeRec]
@[simp] theorem writeRec_qp (s : State) (es : List (Nat × Byte)) : (writeRec s es).qp = s.qp := by simp only [writeRec]
@[simp] theorem writeRec_sliceqp (s : State) (es : List (Nat × Byte)) :
    (writeRec s es).sliceqp = s.sliceqp := by simp only [writeRec]
@[simp] theorem writeRec_bitpos (s : State) (es : List (Nat × Byte)) :
    (writeRec s es).bitpos = s.bitpos := by simp only [writeRec]
@[simp] theorem writeRec_bitlen (s : State) (es : List (Nat × Byte)) :
    (writeRec s es).bitlen = s.bitlen := by simp only [writeRec]
@[simp] theorem writeRec_picdim (s : State) (es : List (Nat × Byte)) :
    (writeRec s es).picdim = s.picdim := by simp only [writeRec]
@[simp] theorem writeRec_mbpos (s : State) (es : List (Nat × Byte)) : (writeRec s es).mbpos = s.mbpos := by simp only [writeRec]
@[simp] theorem writeRec_ncreg (s : State) (es : List (Nat × Byte)) : (writeRec s es).ncreg = s.ncreg := by simp only [writeRec]
@[simp] theorem writeRec_cvstat (s : State) (es : List (Nat × Byte)) :
    (writeRec s es).cvstat = s.cvstat := by simp only [writeRec]
@[simp] theorem writeRec_sae (s : State) (es : List (Nat × Byte)) : (writeRec s es).sae = s.sae := by simp only [writeRec]
@[simp] theorem writeRec_cb (s : State) (es : List (Nat × Byte)) : (writeRec s es).cb = s.cb := by simp only [writeRec]
@[simp] theorem writeRec_pred (s : State) (es : List (Nat × Byte)) : (writeRec s es).pred = s.pred := by simp only [writeRec]
@[simp] theorem writeRec_src (s : State) (es : List (Nat × Byte)) : (writeRec s es).src = s.src := by simp only [writeRec]
@[simp] theorem writeRec_bsb (s : State) (es : List (Nat × Byte)) : (writeRec s es).bsb = s.bsb := by simp only [writeRec]
@[simp] theorem writeRec_ncg (s : State) (es : List (Nat × Byte)) : (writeRec s es).ncg = s.ncg := by simp only [writeRec]
@[simp] theorem writeRec_mvg (s : State) (es : List (Nat × Byte)) : (writeRec s es).mvg = s.mvg := by simp only [writeRec]
@[simp] theorem writeRec_recFrame (s : State) (es : List (Nat × Byte)) :
    (writeRec s es).recFrame = cellWriteAll s.recFrame es := by simp only [writeRec]
@[simp] theorem writeRec_refFrame (s : State) (es : List (Nat × Byte)) :
    (writeRec s es).refFrame = s.refFrame := by simp only [writeRec]
@[simp] theorem writeRec_host (s : State) (es : List (Nat × Byte)) : (writeRec s es).host = s.host := by simp only [writeRec]
@[simp] theorem writeRec_hostData (s : State) (es : List (Nat × Byte)) :
    (writeRec s es).hostData = s.hostData := by simp only [writeRec]
@[simp] theorem writeRec_draws (s : State) (es : List (Nat × Byte)) : (writeRec s es).draws = s.draws := by simp only [writeRec]

/-! `putBits` -/

@[simp] theorem putBits_params (s : State) (code : List Bool) : (putBits s code).params = s.params := by simp only [putBits]
@[simp] theorem putBits_busy (s : State) (code : List Bool) : (putBits s code).busy = s.busy := by simp only [putBits]
@[simp] theorem putBits_done (s : State) (code : List Bool) : (putBits s code).done = s.done := by simp only [putBits]
@[simp] theorem putBits_err (s : State) (code : List Bool) : (putBits s code).err = s.err := by simp only [putBits]
@[simp] theorem putBits_drop (s : State) (code : List Bool) : (putBits s code).drop = s.drop := by simp only [putBits]
@[simp] theorem putBits_errcode (s : State) (code : List Bool) : (putBits s code).errcode = s.errcode := by simp only [putBits]
@[simp] theorem putBits_cmdlatch (s : State) (code : List Bool) :
    (putBits s code).cmdlatch = s.cmdlatch := by simp only [putBits]
@[simp] theorem putBits_errcmd (s : State) (code : List Bool) : (putBits s code).errcmd = s.errcmd := by simp only [putBits]
@[simp] theorem putBits_errpos (s : State) (code : List Bool) : (putBits s code).errpos = s.errpos := by simp only [putBits]
@[simp] theorem putBits_res (s : State) (code : List Bool) : (putBits s code).res = s.res := by simp only [putBits]
@[simp] theorem putBits_opr (s : State) (code : List Bool) : (putBits s code).opr = s.opr := by simp only [putBits]
@[simp] theorem putBits_qp (s : State) (code : List Bool) : (putBits s code).qp = s.qp := by simp only [putBits]
@[simp] theorem putBits_sliceqp (s : State) (code : List Bool) : (putBits s code).sliceqp = s.sliceqp := by simp only [putBits]
@[simp] theorem putBits_bitpos (s : State) (code : List Bool) :
    (putBits s code).bitpos = BitVec.ofNat 32 (here s + code.length) := by simp only [putBits]
@[simp] theorem putBits_bitlen (s : State) (code : List Bool) :
    (putBits s code).bitlen = BitVec.ofNat 32 (max s.bitlen.toNat (here s + code.length)) := by simp only [putBits]
@[simp] theorem putBits_picdim (s : State) (code : List Bool) : (putBits s code).picdim = s.picdim := by simp only [putBits]
@[simp] theorem putBits_mbpos (s : State) (code : List Bool) : (putBits s code).mbpos = s.mbpos := by simp only [putBits]
@[simp] theorem putBits_ncreg (s : State) (code : List Bool) : (putBits s code).ncreg = s.ncreg := by simp only [putBits]
@[simp] theorem putBits_cvstat (s : State) (code : List Bool) : (putBits s code).cvstat = s.cvstat := by simp only [putBits]
@[simp] theorem putBits_sae (s : State) (code : List Bool) : (putBits s code).sae = s.sae := by simp only [putBits]
@[simp] theorem putBits_cb (s : State) (code : List Bool) : (putBits s code).cb = s.cb := by simp only [putBits]
@[simp] theorem putBits_pred (s : State) (code : List Bool) : (putBits s code).pred = s.pred := by simp only [putBits]
@[simp] theorem putBits_src (s : State) (code : List Bool) : (putBits s code).src = s.src := by simp only [putBits]
@[simp] theorem putBits_bsb (s : State) (code : List Bool) :
    (putBits s code).bsb = cellWriteAll s.bsb (bitEntries (here s) code) := by simp only [putBits]
@[simp] theorem putBits_ncg (s : State) (code : List Bool) : (putBits s code).ncg = s.ncg := by simp only [putBits]
@[simp] theorem putBits_mvg (s : State) (code : List Bool) : (putBits s code).mvg = s.mvg := by simp only [putBits]
@[simp] theorem putBits_recFrame (s : State) (code : List Bool) :
    (putBits s code).recFrame = s.recFrame := by simp only [putBits]
@[simp] theorem putBits_refFrame (s : State) (code : List Bool) :
    (putBits s code).refFrame = s.refFrame := by simp only [putBits]
@[simp] theorem putBits_host (s : State) (code : List Bool) : (putBits s code).host = s.host := by simp only [putBits]
@[simp] theorem putBits_hostData (s : State) (code : List Bool) :
    (putBits s code).hostData = s.hostData := by simp only [putBits]
@[simp] theorem putBits_draws (s : State) (code : List Bool) : (putBits s code).draws = s.draws := by simp only [putBits]

/-! `putNc` -/

@[simp] theorem putNc_params (s : State) (p : Plane) (tc bx byy : Nat) :
    (putNc s p tc bx byy).params = s.params := by simp only [putNc]
@[simp] theorem putNc_busy (s : State) (p : Plane) (tc bx byy : Nat) :
    (putNc s p tc bx byy).busy = s.busy := by simp only [putNc]
@[simp] theorem putNc_done (s : State) (p : Plane) (tc bx byy : Nat) :
    (putNc s p tc bx byy).done = s.done := by simp only [putNc]
@[simp] theorem putNc_err (s : State) (p : Plane) (tc bx byy : Nat) : (putNc s p tc bx byy).err = s.err := by simp only [putNc]
@[simp] theorem putNc_drop (s : State) (p : Plane) (tc bx byy : Nat) :
    (putNc s p tc bx byy).drop = s.drop := by simp only [putNc]
@[simp] theorem putNc_errcode (s : State) (p : Plane) (tc bx byy : Nat) :
    (putNc s p tc bx byy).errcode = s.errcode := by simp only [putNc]
@[simp] theorem putNc_cmdlatch (s : State) (p : Plane) (tc bx byy : Nat) :
    (putNc s p tc bx byy).cmdlatch = s.cmdlatch := by simp only [putNc]
@[simp] theorem putNc_errcmd (s : State) (p : Plane) (tc bx byy : Nat) :
    (putNc s p tc bx byy).errcmd = s.errcmd := by simp only [putNc]
@[simp] theorem putNc_errpos (s : State) (p : Plane) (tc bx byy : Nat) :
    (putNc s p tc bx byy).errpos = s.errpos := by simp only [putNc]
@[simp] theorem putNc_res (s : State) (p : Plane) (tc bx byy : Nat) : (putNc s p tc bx byy).res = s.res := by simp only [putNc]
@[simp] theorem putNc_opr (s : State) (p : Plane) (tc bx byy : Nat) : (putNc s p tc bx byy).opr = s.opr := by simp only [putNc]
@[simp] theorem putNc_qp (s : State) (p : Plane) (tc bx byy : Nat) : (putNc s p tc bx byy).qp = s.qp := by simp only [putNc]
@[simp] theorem putNc_sliceqp (s : State) (p : Plane) (tc bx byy : Nat) :
    (putNc s p tc bx byy).sliceqp = s.sliceqp := by simp only [putNc]
@[simp] theorem putNc_bitpos (s : State) (p : Plane) (tc bx byy : Nat) :
    (putNc s p tc bx byy).bitpos = s.bitpos := by simp only [putNc]
@[simp] theorem putNc_bitlen (s : State) (p : Plane) (tc bx byy : Nat) :
    (putNc s p tc bx byy).bitlen = s.bitlen := by simp only [putNc]
@[simp] theorem putNc_picdim (s : State) (p : Plane) (tc bx byy : Nat) :
    (putNc s p tc bx byy).picdim = s.picdim := by simp only [putNc]
@[simp] theorem putNc_mbpos (s : State) (p : Plane) (tc bx byy : Nat) :
    (putNc s p tc bx byy).mbpos = s.mbpos := by simp only [putNc]
@[simp] theorem putNc_ncreg (s : State) (p : Plane) (tc bx byy : Nat) :
    (putNc s p tc bx byy).ncreg = s.ncreg := by simp only [putNc]
@[simp] theorem putNc_cvstat (s : State) (p : Plane) (tc bx byy : Nat) :
    (putNc s p tc bx byy).cvstat = s.cvstat := by simp only [putNc]
@[simp] theorem putNc_sae (s : State) (p : Plane) (tc bx byy : Nat) : (putNc s p tc bx byy).sae = s.sae := by simp only [putNc]
@[simp] theorem putNc_cb (s : State) (p : Plane) (tc bx byy : Nat) : (putNc s p tc bx byy).cb = s.cb := by simp only [putNc]
@[simp] theorem putNc_pred (s : State) (p : Plane) (tc bx byy : Nat) :
    (putNc s p tc bx byy).pred = s.pred := by simp only [putNc]
@[simp] theorem putNc_src (s : State) (p : Plane) (tc bx byy : Nat) : (putNc s p tc bx byy).src = s.src := by simp only [putNc]
@[simp] theorem putNc_bsb (s : State) (p : Plane) (tc bx byy : Nat) : (putNc s p tc bx byy).bsb = s.bsb := by simp only [putNc]
@[simp] theorem putNc_ncg (s : State) (p : Plane) (tc bx byy : Nat) :
    (putNc s p tc bx byy).ncg = cellWrite (ncKey p (cellX s p bx) (cellY s p byy)) { valid := true, tc := tc } s.ncg := by simp only [putNc]
@[simp] theorem putNc_mvg (s : State) (p : Plane) (tc bx byy : Nat) : (putNc s p tc bx byy).mvg = s.mvg := by simp only [putNc]
@[simp] theorem putNc_recFrame (s : State) (p : Plane) (tc bx byy : Nat) :
    (putNc s p tc bx byy).recFrame = s.recFrame := by simp only [putNc]
@[simp] theorem putNc_refFrame (s : State) (p : Plane) (tc bx byy : Nat) :
    (putNc s p tc bx byy).refFrame = s.refFrame := by simp only [putNc]
@[simp] theorem putNc_host (s : State) (p : Plane) (tc bx byy : Nat) :
    (putNc s p tc bx byy).host = s.host := by simp only [putNc]
@[simp] theorem putNc_hostData (s : State) (p : Plane) (tc bx byy : Nat) :
    (putNc s p tc bx byy).hostData = s.hostData := by simp only [putNc]
@[simp] theorem putNc_draws (s : State) (p : Plane) (tc bx byy : Nat) :
    (putNc s p tc bx byy).draws = s.draws := by simp only [putNc]

end Sys2Proof.Machine
end

