-- ==== Sys2Proof/Tests/Slice0.lean ====
section
/-! SUPPORT. The model's own tests. Words are written out bit by bit from 30_encoding.md R161 .. R172; expected results
are those of 95_test_vectors.md, named by their row, or are worked out by hand from the rule named. Each obligation that
has hypotheses has a `witness_` theorem with a state and operands that meet them. -/

namespace Sys2Proof.Tests

open Sys2Proof Sys2Proof.Machine

set_option Elab.async false

/-! Small states. -/

/-- The state after power-on with the parameters of the vectors. -/
abbrev r0 : State := State.reset

/-- A bit string from its digits. -/
def digits (l : List Nat) : List Bool := l.map (fun d => decide (d = 1))

/-- `BSB` holds the bits from 0 on and `BITLEN` is their number. -/
def withStream (s : State) (l : List Nat) : State :=
  { s with bsb := (List.range l.length).zip (digits l), bitlen := BitVec.ofNat 32 l.length }

/-- `CB[k]` holds the 16 elements `b`; a short list is filled with zeros. -/
def withSlot (s : State) (k : Slot) (b : List Int) : State := writeSlot s k b

/-- `PRED` and `SRC` hold one value everywhere. -/
def flatSamples (v : Byte) : Cells Byte := (List.range 256).map (fun k => (k, v))

/-- A 1×1 picture at macroblock `(0, 0)`. -/
def onePicture (s : State) : State := { s with picdim := 0x0101 }

/-- A 2×2 picture at macroblock `(mx, my)`. -/
def twoPicture (s : State) (mx my : Nat) : State := { s with picdim := 0x0202, mbpos := BitVec.ofNat 16 (my * 256 + mx) }

/-- The next state, if there is one. -/
def nextOf (o : Host.Outcome State Fault Refusal) : Option State :=
  match o with
  | .next t => some t
  | .fault _ => none
  | .refused _ => none

theorem next_of_nextOf {o : Host.Outcome State Fault Refusal} {t : State} (h : nextOf o = some t) : o = .next t := by
  cases o <;> simp_all [nextOf]

/-- The step that runs the command word `w`. -/
def ran (w : Nat) (s : State) : Option State := nextOf (step (s.withFetchWord 32 w))

/-- What the host sees after an error: `ERRCODE` and `ERRPOS`. -/
def errorOf (o : Option State) : Option (ErrCode × Nat) :=
  o.bind (fun t => if t.err && !t.busy && !t.done then some (t.errcode, t.errpos.toNat) else none)

/-- The elements of slot `k`. -/
def slotOf (k : Nat) (t : State) : List (Option Int) :=
  (List.range 16).map (fun j => (cellRead t.cb (16 * k + j)).map BitVec.toInt)

/-- `n` bits of the stream from `pos` on. -/
def streamOf (pos n : Nat) (t : State) : List (Option Bool) := (List.range' pos n).map (cellRead t.bsb)

/-! Well-formedness: an ill-formed term for each check (30_encoding.md R171). -/

theorem test_wellFormed_setr_below : (Instr.setr 5 0).wellFormed = false := by decide
theorem test_wellFormed_setr_above : (Instr.setr 15 0).wellFormed = false := by decide
theorem test_wellFormed_setrh : (Instr.setrh 5 0).wellFormed = false ∧ (Instr.setrh 15 0).wellFormed = false := by decide
theorem test_wellFormed_widths :
    (Instr.bsrd 33).wellFormed = false ∧ (Instr.bspeek 33).wellFormed = false ∧ (Instr.bswr 33).wellFormed = false := by decide
theorem test_wellFormed_cavlc_dc :
    (Instr.cavlcdec 0 .m16 none false 0 0 false).wellFormed = false ∧
    (Instr.cavlcdec 0 .m4 (some .y) false 0 0 false).wellFormed = false ∧
    (Instr.cavlcenc 0 .m4 none true 0 0 false).wellFormed = false ∧
    (Instr.cavlcenc 0 .m4 none false 1 0 false).wellFormed = false ∧
    (Instr.cavlcdec 0 .m4 none false 0 1 false).wellFormed = false ∧
    (Instr.cavlcdec 0 .m4 none false 0 0 true).wellFormed = false := by decide
theorem test_wellFormed_cavlc_chroma :
    (Instr.cavlcdec 0 .m16 (some .cb) false 2 0 false).wellFormed = false ∧
    (Instr.cavlcenc 0 .m15 (some .cr) false 1 2 false).wellFormed = false := by decide
theorem test_wellFormed_ncset :
    (Instr.ncset none 0 0 false).wellFormed = false ∧ (Instr.ncset (some .y) 1 0 true).wellFormed = false ∧
    (Instr.ncset (some .y) 0 1 true).wellFormed = false ∧ (Instr.ncset (some .cb) 2 0 false).wellFormed = false := by decide
theorem test_wellFormed_ncget :
    (Instr.ncget none 0 0 false).wellFormed = false ∧ (Instr.ncget (some .cr) 0 2 false).wellFormed = false := by decide
theorem test_wellFormed_boundaries :
    (Instr.setr 6 0).wellFormed = true ∧ (Instr.setrh 14 0).wellFormed = true ∧ (Instr.bsrd 32).wellFormed = true ∧
    (Instr.bswr 0).wellFormed = true ∧ (Instr.cavlcdec 31 .m15 (some .cb) true 1 1 true).wellFormed = true ∧
    (Instr.ncset none 0 0 true).wellFormed = true ∧ (Instr.ncget (some .y) 3 3 true).wellFormed = true := by decide

/-! Decoding: every constructor from a word written out from its format (30_encoding.md R161 .. R172). -/

theorem test_decode_control :
    decode 0b000000_00000000000000000000000000 = .ok .nop ∧
    decode 0b000001_001000_0000_0000000000011100 = .ok (.setr 8 28) ∧
    decode 0b000010_000111_0000_0001001000110100 = .ok (.setrh 7 0x1234) ∧
    decode 0b000011_00000000000000000000000000 = .ok .gridclr ∧
    decode 0b000100_00000000000000000000000000 = .ok .qpdelta ∧
    decode 0b101001_00011_10001_01_10_11_11_00000000 = .ok (.emov 3 17 1 2 3 3) ∧
    decode 0b101010_11110_000000000000000000000 = .ok (.zero 30) := by decide
theorem test_decode_bitstream :
    decode 0b001000_00000000000000000000_100000 = .ok (.bsrd 32) ∧
    decode 0b001001_00000000000000000000_000100 = .ok (.bspeek 4) ∧
    decode 0b001010_00000000000000000000000000 = .ok .bsrdue ∧
    decode 0b001011_00000000000000000000000000 = .ok .bsrdse ∧
    decode 0b001100_00000000000000000000_001101 = .ok (.bswr 13) ∧
    decode 0b001101_00000000000000000000000000 = .ok .bswrue ∧
    decode 0b001110_00000000000000000000000000 = .ok .bswrse ∧
    decode 0b001111_0000000000000000000000000_1 = .ok (.bsalign true) ∧
    decode 0b010000_00000000000000000000000000 = .ok .bstrail ∧
    decode 0b010001_00000000000000000000000000 = .ok .bsmore ∧
    decode 0b010010_0000000000000000000000000_0 = .ok (.bsrdme false) ∧
    decode 0b010011_0000000000000000000000000_1 = .ok (.bswrme true) := by decide
theorem test_decode_cavlc :
    decode 0b011000_00101_01_00_0_01_10_1_00000000000 = .ok (.cavlcdec 5 .m15 (some .y) false 1 2 true) ∧
    decode 0b011001_10100_10_11_0_00_00_0_00000000000 = .ok (.cavlcenc 20 .m4 none false 0 0 false) ∧
    decode 0b011000_00000_00_10_1_01_00_0_00000000000 = .ok (.cavlcdec 0 .m16 (some .cr) true 1 0 false) ∧
    decode 0b011010_00000_00_01_0_00_01_0_00000000000 = .ok (.ncset (some .cb) 0 1 false) ∧
    decode 0b011011_00000_00_00_0_11_10_1_00000000000 = .ok (.ncget (some .y) 3 2 true) := by decide
theorem test_decode_zigzag_transform :
    decode 0b100000_00001_00010_00000_1_0000000000 = .ok (.zzfwd 1 2 true) ∧
    decode 0b100001_00001_00010_00000_0_0000000000 = .ok (.zzinv 1 2 false) ∧
    decode 0b100010_00001_11111_0000000000000000 = .ok (.fcore 1 31) ∧
    decode 0b100011_00010_00001_00000_1_0000000000 = .ok (.fquant 2 1 true) ∧
    decode 0b100100_10000_00001_0000000000000000 = .ok (.fhadq 16 1) ∧
    decode 0b100101_00010_00001_00000_0_0000000000 = .ok (.iquant 2 1 false) ∧
    decode 0b100110_00010_00001_0000000000000000 = .ok (.idct 2 1) ∧
    decode 0b100111_10000_10001_0000000000000000 = .ok (.ihadq 16 17) ∧
    decode 0b101000_00011_00001_00010_00000000000 = .ok (.pres 3 1 2) := by decide
theorem test_decode_prediction :
    decode 0b110000_000000000000000000000000_11 = .ok (.ipred 3) ∧
    decode 0b110001_00000000000000000000000000 = .ok .ipsel ∧
    decode 0b110010_00100_00000_11_10_000000000000 = .ok (.rsub 4 3 2) ∧
    decode 0b110011_00000_00000_01_00_000000000000 = .ok (.recon 0 1 0) ∧
    decode 0b110100_00000000000000000000000000 = .ok .rcopy ∧
    decode 0b111000_00000000000000000000000000 = .ok .mvpred ∧
    decode 0b111001_0000000000000000000000000_1 = .ok (.mvset true) ∧
    decode 0b111010_00000000000000000000000000 = .ok .mcopy := by decide
/-- Rows B6, V16 .. V19, I8, K11 .. K13 and E1 .. E11 of 95_test_vectors.md, with the reason of the rejection. -/
theorem test_decode_rejects :
    decode 0x20000021 = .error .badValue ∧ decode 0x60060000 = .error .badValue ∧ decode 0x60100000 = .error .badValue ∧
    decode 0x60028000 = .error .badValue ∧ decode 0x68060000 = .error .badValue ∧ decode 0x60180000 = .error .badValue ∧
    decode 0x04500000 = .error .badValue ∧ decode 0x04000000 = .error .badValue ∧ decode 0x6C060000 = .error .badValue ∧
    decode 0xC0200002 = .error .reservedField ∧ decode 0x00000001 = .error .reservedField ∧
    decode 0x98000400 = .error .reservedField ∧ decode 0x0C000001 = .error .reservedField ∧
    decode 0xE4000002 = .error .reservedField ∧ decode 0x3C000002 = .error .reservedField ∧
    decode 0xC0000004 = .error .reservedField ∧ decode 0xFFFFFFFF = .error .reservedOpcode ∧
    decode 0x14000000 = .error .reservedOpcode := by decide
theorem test_encode : encode (.setrh 10 0) = 0x08A00000 ∧ encode (.ncset (some .y) 0 0 false) = 0x68000000 ∧
    encode (.emov 3 17 0 0 0 3) = 0xA4710300 ∧ encode (.pres 3 1 2) = 0xA0611000 := by decide

/-! Control (section 2.6). -/

/-- 45_control.md R510, 60_exceptions.md R566. -/
theorem test_nop : ran 0x00000000 r0 = some { r0 with done := true } := by decide +kernel
/-- K7. -/
theorem test_setr_keeps_defined_bits : (ran 0x0480FFFF r0).map (fun t => readReg t 8) = some 63 := by decide +kernel
/-- K8. -/
theorem test_setr_sign_extends : (ran 0x0470FFFD r0).map (fun t => t.opr) = some 0xFFFFFFFD := by decide +kernel
/-- K9: the clamp of `BITLEN`. -/
theorem test_setrh_clamps : (ran 0x08B00001 r0).map (fun t => t.bitlen) = some 512 := by decide +kernel
/-- K10. -/
theorem test_setrh_keeps_low : (ran 0x08701234 { r0 with opr := 0x5678 }).map (fun t => t.opr) = some 0x12345678 := by decide +kernel
/-- 45_control.md R513. -/
theorem test_gridclr :
    (ran 0x0C000000 { r0 with ncg := [(3, ⟨true, 5⟩)], mvg := [(0, ⟨true, 1, 2⟩)] }).map (fun t => (t.ncg, t.mvg))
      = some ([(3, ⟨false, 5⟩)], [(0, ⟨false, 1, 2⟩)]) := by decide +kernel
/-- K1 .. K5. -/
theorem test_qpdelta_wraps :
    [((26 : BitVec 6), (2 : Word)), (0, 0xFFFFFFFF), (51, 1), (26, 0xFFFFFFB2), (10, 100)].map
      (fun p => (ran 0x10000000 { r0 with sliceqp := p.1, opr := p.2 }).map (fun t => t.qp.toNat))
      = [some 28, some 51, some 0, some 0, some 6] := by decide +kernel
/-- K6. -/
theorem test_qpdelta_checks : errorOf (ran 0x10000000 { r0 with sliceqp := 52 }) = some (.invalidFieldValue, 0) := by decide +kernel
/-- K14. -/
theorem test_emov :
    (ran 0xA4600300 { r0 with cb := [(3, 9)] }).map (fun t => (cellRead t.cb 48, cellRead t.cb 49)) = some (some 9, none) := by decide +kernel
/-- 45_control.md R516: an unwritten slot becomes written. -/
theorem test_zero : (ran 0xABE00000 r0).map (slotOf 31) = some (List.replicate 16 (some 0)) := by decide +kernel

/-! The bit cursor (section 2.1). -/

/-- B1. -/
theorem test_bsrd : (ran 0x20000003 (withStream r0 [1, 0, 1, 1, 0, 0, 1, 0])).map (fun t => (t.res, t.bitpos)) = some (5, 3) := by decide +kernel
/-- B5. -/
theorem test_bsrd_exhausted :
    errorOf (ran 0x20000004 { withStream r0 [1, 0, 1, 1, 0, 0, 1, 0] with bitpos := 6 }) = some (.bitstreamExhausted, 6) := by decide +kernel
/-- B2. -/
theorem test_bspeek :
    (ran 0x24000004 { withStream r0 [1, 0, 1, 1, 0, 0, 1, 0] with bitpos := 2 }).map (fun t => (t.res, t.bitpos)) = some (12, 2) := by decide +kernel
/-- B13. -/
theorem test_bsrdue_longest :
    (ran 0x28000000 (withStream r0 (List.replicate 31 0 ++ List.replicate 32 1))).map (fun t => (t.res, t.bitpos)) = some (0xFFFFFFFE, 63) := by decide +kernel
/-- B15, B16. -/
theorem test_bsrdue_errors :
    errorOf (ran 0x28000000 (withStream r0 (List.replicate 32 0 ++ [1, 0, 0, 0, 0, 0, 0, 0]))) = some (.malformedVlcCode, 0) ∧
    errorOf (ran 0x28000000 (withStream r0 [0, 0, 0, 1])) = some (.bitstreamExhausted, 0) := by decide +kernel
/-- B9 .. B12. -/
theorem test_bsrdse :
    [[0, 0, 1, 1, 1], [0, 0, 1, 1, 0], [0, 1, 0], [0, 1, 1]].map (fun l => (ran 0x2C000000 (withStream r0 l)).map (fun t => t.res.toInt))
      = [some (-3), some 3, some 1, some (-1)] := by decide +kernel
/-- B17, B18, B19. -/
theorem test_bsrdme :
    (ran 0x48000001 (withStream r0 [0, 1, 1])).map (fun t => t.res) = some 15 ∧
    (ran 0x48000000 (withStream r0 [0, 1, 1])).map (fun t => t.res) = some 1 ∧
    (ran 0x48000001 (withStream r0 [1])).map (fun t => t.res) = some 47 := by decide +kernel
/-- B20. -/
theorem test_bsrdme_too_large :
    errorOf (ran 0x48000000 (withStream r0 [0, 0, 0, 0, 0, 1, 1, 0, 0, 0, 1])) = some (.invalidFieldValue, 0) := by decide +kernel
/-- B22. -/
theorem test_bswr :
    (ran 0x30000003 { r0 with opr := 0xFF }).map (fun t => (streamOf 0 4 t, t.bitpos, t.bitlen)) = some ([some true, some true, some true, none], 3, 3) := by decide +kernel
/-- B32. -/
theorem test_bswr_exhausted : errorOf (ran 0x30000008 { r0 with bitpos := 508 }) = some (.bitstreamExhausted, 508) := by decide +kernel
/-- B23, B25. -/
theorem test_bswrue :
    (ran 0x34000000 { r0 with opr := 6 }).map (streamOf 0 5) = some [some false, some false, some true, some true, some true] ∧
    errorOf (ran 0x34000000 { r0 with opr := 0xFFFFFFFF }) = some (.invalidFieldValue, 0) := by decide +kernel
/-- B26, B28. -/
theorem test_bswrse :
    (ran 0x38000000 { r0 with opr := 0xFFFFFFFD }).map (streamOf 0 5) = some [some false, some false, some true, some true, some true] ∧
    errorOf (ran 0x38000000 { r0 with opr := 0x80000000 }) = some (.invalidFieldValue, 0) := by decide +kernel
/-- B30, B31. -/
theorem test_bswrme :
    (ran 0x4C000001 { r0 with opr := 47 }).map (fun t => (streamOf 0 1 t, t.bitpos)) = some ([some true], 1) ∧
    errorOf (ran 0x4C000000 { r0 with opr := 48 }) = some (.invalidFieldValue, 0) := by decide +kernel
/-- B33, B34. -/
theorem test_bsalign_skip :
    (ran 0x3C000000 { r0 with bitpos := 13, bitlen := 16 }).map (fun t => t.bitpos) = some 16 ∧
    errorOf (ran 0x3C000000 { r0 with bitpos := 13, bitlen := 14 }) = some (.bitstreamExhausted, 13) := by decide +kernel
/-- B35. -/
theorem test_bsalign_fill :
    (ran 0x3C000001 { r0 with bitpos := 13, bitlen := 13 }).map (fun t => (streamOf 13 3 t, t.bitpos, t.bitlen))
      = some ([some false, some false, some false], 16, 16) := by decide +kernel
/-- B36, B38. -/
theorem test_bstrail :
    (ran 0x40000000 { r0 with bitpos := 13 }).map (fun t => (streamOf 13 3 t, t.bitpos)) = some ([some true, some false, some false], 16) ∧
    (ran 0x40000000 { r0 with bitpos := 7 }).map (fun t => (streamOf 7 1 t, t.bitpos)) = some ([some true], 8) := by decide +kernel
/-- B39, B40. -/
theorem test_bsmore :
    (ran 0x44000000 { r0 with bitpos := 83, bitlen := 100 }).map (fun t => t.res) = some 1 ∧
    (ran 0x44000000 { r0 with bitpos := 84, bitlen := 100 }).map (fun t => t.res) = some 0 := by decide +kernel

/-! CAVLC and the nC grid (sections 1.4 and 2.3). -/

/-- Section 1.4, the second vector. -/
theorem test_cavlcdec :
    (ran 0x60010000 (withStream r0 [0, 0, 0, 0, 0, 0, 0, 1, 1, 0, 1, 0, 0, 0, 1, 0, 0, 1, 0, 0, 0, 0, 1, 0, 1, 1, 1, 0, 0, 1, 1, 0, 0])).map
      (fun t => (slotOf 0 t, t.bitpos, t.res, t.cvstat))
      = some ([-2, 4, 0, -1, 3, 0, 0, 0, -3, 0, 0, 0, 0, 0, 0, 0].map some, 33, 5, 0x00210105) := by decide +kernel
/-- V13, V14, V15. -/
theorem test_cavlcdec_errors :
    errorOf (ran 0x60010000 (withStream r0 (List.replicate 16 0))) = some (.malformedVlcCode, 0) ∧
    errorOf (ran 0x60010000 (withStream r0 (List.replicate 15 0))) = some (.bitstreamExhausted, 0) ∧
    errorOf (ran 0x60090000 (withStream r0 (List.replicate 13 0 ++ [1, 0, 0] ++ List.replicate 40 0))) = some (.invalidFieldValue, 0) := by decide +kernel
/-- V8, V12. -/
theorem test_cavlcenc :
    (ran 0x64010000 (withSlot r0 0 [10])).map (fun t => (streamOf 0 26 t, t.bitpos))
      = some ((digits [0, 0, 0, 1, 0, 1, 0, 0, 0, 0, 0, 0, 0, 0, 0, 0, 0, 0, 0, 0, 1, 0, 0, 1, 0, 1]).map some, 26) ∧
    (ran 0x64160000 (withSlot r0 0 [1, -1, 0, 0, 2])).map (fun t => (streamOf 0 12 t, t.bitpos))
      = some ((digits [0, 0, 0, 0, 1, 1, 1, 1, 1, 1, 0, 1]).map some, 12) := by decide +kernel
/-- V9, V10: the largest level, and one more. -/
theorem test_cavlcenc_largest :
    (ran 0x64010000 (withSlot r0 0 [2064])).map (fun t => t.bitpos) = some 35 ∧
    errorOf (ran 0x64010000 (withSlot r0 0 [2065])) = some (.invalidFieldValue, 0) := by decide +kernel
/-- 42_cavlc.md R320, and V23. -/
theorem test_ncset :
    (ran 0x68020800 { onePicture r0 with ncreg := 16 }).map (fun t => t.ncg.map (fun e => (e.1, e.2.tc)))
      = some [(2 ^ 20, 16), (2 ^ 20 + 1, 16), (2 ^ 20 + 1024, 16), (2 ^ 20 + 1025, 16)] ∧
    errorOf (ran 0x68060800 { onePicture r0 with ncreg := 17 }) = some (.invalidFieldValue, 0) := by decide +kernel
/-- V24, V22. -/
theorem test_ncget :
    (ran 0x6C004000 { twoPicture r0 1 0 with ncg := [(3, ⟨true, 4⟩), (4, ⟨true, 2⟩)] }).map (fun t => t.res) = some 2 ∧
    errorOf (ran 0x6C004000 (onePicture r0)) = some (.contextNotWritten, 0) := by decide +kernel
/-- V27, V28. -/
theorem test_ncFromNeighbours :
    ncFromNeighbours .zeroSubst (some 4) none = 2 ∧ ncFromNeighbours .itu (some 4) none = 4 ∧
    ncFromNeighbours .itu (some 3) (some 4) = 4 := by decide

/-! Zig-zag (section 2.2). -/

/-- Z1, Z3. -/
theorem test_zzfwd :
    (ran 0x80200000 (withSlot r0 0 [0, 1, 2, 3, 4, 5, 6, 7, 8, 9, 10, 11, 12, 13, 14, 15])).map (slotOf 1)
      = some ([0, 1, 4, 8, 5, 2, 3, 6, 9, 12, 13, 10, 7, 11, 14, 15].map some) ∧
    (ran 0x80600400 (withSlot r0 0 [0, 1, 2, 3, 4, 5, 6, 7, 8, 9, 10, 11, 12, 13, 14, 15])).map (slotOf 3)
      = some ([0, 1, 4, 5, 0, 0, 0, 0, 0, 0, 0, 0, 0, 0, 0, 0].map some) := by decide +kernel
/-- Z2, Z4. -/
theorem test_zzinv :
    (ran 0x84410000 (withSlot r0 1 [0, 1, 4, 8, 5, 2, 3, 6, 9, 12, 13, 10, 7, 11, 14, 15])).map (slotOf 2)
      = some ([0, 1, 2, 3, 4, 5, 6, 7, 8, 9, 10, 11, 12, 13, 14, 15].map some) ∧
    (ran 0x84830400 (withSlot r0 3 [0, 1, 4, 5])).map (slotOf 4)
      = some ([0, 1, 0, 0, 4, 5, 0, 0, 0, 0, 0, 0, 0, 0, 0, 0].map some) := by decide +kernel

/-! Transform and quantization (section 2.4). -/

/-- T1. -/
theorem test_fcore :
    (ran 0x88200000 (withSlot r0 0 [5, 11, 8, 10, 9, 8, 4, 12, 1, 10, 11, 4, 19, 6, 15, 7])).map (slotOf 1)
      = some ([140, -1, -6, 7, -19, -39, 7, -92, 22, 17, 8, 31, -27, -32, -59, -21].map some) := by decide +kernel
/-- T22. -/
theorem test_fcore_overflow :
    errorOf (ran 0x88200000 (withSlot r0 0 (List.replicate 16 (2 ^ 27)))) = some (.arithOverflow, 0) := by decide +kernel
/-- T5. -/
theorem test_fquant :
    (ran 0x8C410000 { withSlot r0 1 [140, -1, -6, 7, -19, -39, 7, -92, 22, 17, 8, 31, -27, -32, -59, -21] with qp := 10 }).map (slotOf 2)
      = some ([18, 0, -1, 1, -2, -2, 1, -5, 3, 1, 1, 2, -2, -2, -5, -1].map some) := by decide +kernel
/-- T11. -/
theorem test_fquant_ac :
    (ran 0x8C410400 { withSlot r0 1 [140, -1, -6, 7, -19, -39, 7, -92, 22, 17, 8, 31, -27, -32, -59, -21] with qp := 28 }).map (slotOf 2)
      = some ([0, 0, 0, 0, 0, 0, 0, -1, 0, 0, 0, 0, 0, 0, -1, 0].map some) := by decide +kernel
/-- T12, T13. -/
theorem test_roundShift :
    roundShift .halfAway 40960 14 = 3 ∧ roundShift .halfEven 40960 14 = 2 ∧ roundShift .halfAway (-40960) 14 = -3 ∧
    roundShift .halfEven (-40960) 14 = -2 := by decide
/-- T14. -/
theorem test_fhadq :
    (ran 0x90200000 { withSlot r0 0 (List.replicate 16 160) with qp := 28 }).map (slotOf 1)
      = some ((10 :: List.replicate 15 0).map some) := by decide +kernel
/-- T19. -/
theorem test_iquant_dc :
    (ran 0x94200400 { withSlot r0 0 [7, 1, 0, 0, 2, 0, 0, 0, 0, 0, 0, 0, 0, 0, 0, -1] with qp := 28 }).map (slotOf 1)
      = some ([7, 320, 0, 0, 640, 0, 0, 0, 0, 0, 0, 0, 0, 0, 0, -400].map some) := by decide +kernel
/-- T23, T24. -/
theorem test_iquant_largest :
    (ran 0x94200000 { withSlot r0 0 [0, 0, 0, 0, 0, 364722] with qp := 51 }).map (fun t => (slotOf 1 t)[5]?) = some (some (some 2147483136)) ∧
    errorOf (ran 0x94200000 { withSlot r0 0 [0, 0, 0, 0, 0, 364723] with qp := 51 }) = some (.arithOverflow, 0) := by decide +kernel
/-- T9. -/
theorem test_idct :
    (ran 0x98420000 (withSlot r0 2 [512, 0, 0, 0, 0, 0, 0, -400, 0, 0, 0, 0, 0, 0, -320, 0])).map (slotOf 2)
      = some ([2, 17, 4, 9, 11, 6, 0, 15, 5, 10, 16, 1, 14, -1, 12, 7].map some) := by decide +kernel
/-- T17, T18: the final rounding at its edge. -/
theorem test_idct_rounds :
    (ran 0x98200000 (withSlot r0 0 [-32])).map (slotOf 1) = some (List.replicate 16 (some 0)) ∧
    (ran 0x98200000 (withSlot r0 0 [-33])).map (slotOf 1) = some (List.replicate 16 (some (-1))) := by decide +kernel
/-- T15. -/
theorem test_ihadq :
    [(0 : BitVec 6), 5, 6, 11, 12, 28, 51].map
      (fun q => (ran 0x9C200000 { withSlot r0 0 [10] with qp := q }).map (fun t => (slotOf 1 t)[15]?))
      = [some (some (some 25)), some (some (some 45)), some (some (some 50)), some (some (some 90)), some (some (some 100)),
         some (some (some 640)), some (some (some 8960))] := by decide +kernel
/-- T20. -/
theorem test_pres :
    (ran 0xA0400800 { withSlot (withSlot r0 0 [2, 1]) 1 [64] with qp := 28 }).map (slotOf 2) = some (List.replicate 16 (some 1)) := by decide +kernel

/-! Prediction and motion (section 2.5). -/

/-- The neighbours of section 2.5. -/
def rowH : List Int := (List.range 16).map (fun x => 16 * (x : Int))
def columnV : List Int := (List.range 16).map (fun y => 10 + 4 * (y : Int))

/-- I1, I2, I4. -/
theorem test_intraPred :
    (intraPred ⟨some rowH, some columnV, some 0⟩ 2).map (fun p => p.getD 77 0) = some 80 ∧
    (intraPred ⟨some rowH, some columnV, some 0⟩ 3).map (fun p => [0, 1, 15, 240, 119, 255].map (fun k => p.getD k 0))
      = some [17, 33, 251, 78, 155, 255] ∧
    (intraPred ⟨some rowH, none, none⟩ 2).map (fun p => p.getD 0 0) = some 120 := by decide +kernel
/-- I3 and I6: `IPRED 2` and `IPRED 0` without neighbours. -/
theorem test_ipred :
    (ran 0xC0000002 (onePicture r0)).map (fun t => [0, 255, 256].map (cellRead t.pred)) = some [some 128, some 128, none] ∧
    errorOf (ran 0xC0000000 (onePicture r0)) = some (.invalidFieldValue, 0) := by decide +kernel
/-- 44_prediction.md R456, by hand: at `(0,0)` only mode 2 is available, and a source of 130 differs by 2 in 256 samples. -/
theorem test_ipsel :
    (ran 0xC4000000 (onePicture { r0 with src := flatSamples 130 })).map (fun t => (t.res, t.sae, cellRead t.pred 255))
      = some (2, 512, some 128) := by decide +kernel
/-- 44_prediction.md R457, by hand: sample (3, 2) of block (1, 2) is `SRC[11][6]`. -/
theorem test_rsub :
    (ran 0xC8006000 { r0 with src := cellWrite 182 7 (flatSamples 10), pred := flatSamples 9 }).map (slotOf 0)
      = some ((List.replicate 14 1 ++ [-2, 1]).map some) := by decide +kernel
/-- I18, I19. -/
theorem test_recon :
    (ran 0xCC004000 (onePicture { withSlot r0 0 (List.replicate 16 10) with pred := flatSamples 128 })).map
      (fun t => (cellRead t.recFrame (3 * 4096 + 7), cellRead t.recFrame 0, t.recFrame.length)) = some (some 138, none, 16) ∧
    (ran 0xCC004000 (onePicture { withSlot r0 0 [-300, 200] with pred := flatSamples 128 })).map
      (fun t => (cellRead t.recFrame 4, cellRead t.recFrame 5)) = some (some 0, some 255) := by decide +kernel
/-- I20, and 44_prediction.md R459 by hand. -/
theorem test_rcopy :
    errorOf (ran 0xD0000000 r0) = some (.invalidFieldValue, 0) ∧
    (ran 0xD0000000 (twoPicture { r0 with pred := flatSamples 5 } 1 1)).map (fun t => (cellRead t.recFrame (16 * 4096 + 16), cellRead t.recFrame 0))
      = some (some 5, none) := by decide +kernel
/-- I10, I11, I12. -/
theorem test_mvPredictor :
    mvPredictor (some (4, -2)) none none = (4, -2) ∧ mvPredictor none (some (3, 1)) (some (7, -5)) = (3, 1) ∧
    mvPredictor (some (4, -2)) (some (8, 6)) (some (-2, 3)) = (4, 3) := by decide
/-- I14; and by I10 with A alone. -/
theorem test_mvpred :
    errorOf (ran 0xE0000000 { r0 with picdim := 0x0102, mbpos := 1 }) = some (.contextNotWritten, 0) ∧
    (ran 0xE0000000 { r0 with picdim := 0x0102, mbpos := 1, mvg := [(0, ⟨true, 4, 0xFFFE⟩)] }).map (fun t => t.res) = some 0xFFFE0004 := by decide +kernel
/-- The `MVSET` of I16. -/
theorem test_mvset :
    (ran 0xE4000000 { twoPicture r0 1 0 with opr := 0x0003FFEC }).map (fun t => t.mvg) = some [(1, ⟨true, 0xFFEC, 3⟩)] := by decide +kernel
/-- The places that I16 and I17 read: `REF[3][0]`, `REF[3][1]`, `REF[18][11]`, and with `MV_SHIFT = 2` `REF[0][11]`. -/
theorem test_refKey :
    refKey (twoPicture r0 1 0) (-20, 3) 0 0 = 3 * 4096 ∧ refKey (twoPicture r0 1 0) (-20, 3) 0 5 = 3 * 4096 + 1 ∧
    refKey (twoPicture r0 1 0) (-20, 3) 15 15 = 18 * 4096 + 11 ∧
    refKey { twoPicture r0 1 0 with params := { Params.vectors with mvShift := .quarter } } (-20, 3) 0 0 = 11 := by decide +kernel
/-- I15; and 44_prediction.md R467 by hand with a flat reference frame. -/
theorem test_mcopy :
    errorOf (ran 0xE8000000 (onePicture r0)) = some (.contextNotWritten, 0) ∧
    (ran 0xE8000000 (onePicture { r0 with mvg := [(0, ⟨true, 0x8000, 0x8000⟩)], refFrame := [(0, 77)] })).map
      (fun t => [0, 255, 256].map (cellRead t.pred)) = some [some 77, some 77, none] := by decide +kernel

/-! Errors, handshake and reset (section 2.7). -/

/-- One bus write by the host. -/
def written32 (off v : Word) (s : State) : Option State := nextOf (step { s with host := [⟨true, .write off v⟩] })

/-- X1. -/
theorem test_error_then_drop :
    ((ran 0x28000000 (withStream r0 [0, 0, 0, 0])).bind (written32 12 0)).map statusWord = some 0x10C := by decide +kernel
/-- X2. -/
theorem test_soft_reset_wins :
    ((ran 0x28000000 (withStream r0 [0, 0, 0, 0])).bind (written32 4 3)).map (fun t => (statusWord t, t.bitlen, readReg t 0))
      = some (0, 0, 0x50594301) := by decide +kernel
/-- X3. -/
theorem test_error_clear :
    ((ran 0x20000021 { r0 with bitpos := 9 }).bind (written32 4 2)).map (fun t => (statusWord t, t.errcmd, t.errpos))
      = some (0, 0x20000021, 9) := by decide +kernel
/-- B41: the byte and bit order of the stream window. -/
theorem test_stream_window :
    ((written32 0x10000 0x44332211 { r0 with bitlen := 32 }).bind (ran 0x2000000C)).map (fun t => t.res) = some 0x112 := by decide +kernel
/-- B42. -/
theorem test_bitlen_clamp : (written32 44 1000000 r0).map (fun t => t.bitlen) = some 512 := by decide +kernel

/-! Witnesses: states and operands that meet the hypotheses of each obligation, with the boundary values of its ranges. -/

/-- The engine runs the word `w`, and no host move is left. -/
def running (w : Word) : State := { r0 with busy := true, cmdlatch := w }

theorem running_waits (w : Word) : (running w).hostWaits := by
  intro m ms h
  have : ([] : List HostMove) = m :: ms := h
  cases this

/-- The offset or data word `n`. -/
abbrev word (n : Nat) : Word := BitVec.ofNat 32 n

/-- The host has the one move `m` left. -/
def hosted (s : State) (m : HostMove) : State := { s with host := [m] }

theorem slotIs_of {s : State} {slot : Slot} {X : Matrix4}
    (h : ∀ r c : Fin 4, (cellRead s.cb (16 * slot.toNat + 4 * r.val + c.val)).map BitVec.toInt = some (X r c)) :
    s.slotIs slot X := by
  intro r c
  obtain ⟨v, hv, hx⟩ := Option.map_eq_some_iff.mp (h r c)
  exact ⟨v, hv, hx⟩

theorem sampleIs_of {m : Cells Byte} {k : Nat} {x : Int} (h : (cellRead m k).map (fun v => (v.toNat : Int)) = some x) :
    sampleIs m k x := by
  obtain ⟨v, hv, hx⟩ := Option.map_eq_some_iff.mp h
  exact ⟨v, hv, hx⟩

theorem sampleIs_flat {v : Byte} {k : Nat} (h : k < 256) : sampleIs (flatSamples v) k v.toNat := by
  refine ⟨v, ?_, rfl⟩
  have : flatSamples v = (List.range 256).map (fun i => (0 + i, v)) := by simp [flatSamples]
  rw [this, cellRead_range_map, if_pos (by omega)]

theorem sampleIs_none_flat {v : Byte} {k : Nat} (h : 256 ≤ k) : cellRead (flatSamples v) k = none := by
  have : flatSamples v = (List.range 256).map (fun i => (0 + i, v)) := by simp [flatSamples]
  rw [this, cellRead_range_map, if_neg (by omega)]

/-! Encoding and the machine. -/

theorem witness_DecodeOfEncodeIsTheCommand :
    (Instr.cavlcdec 31 .m15 (some .cr) true 1 1 true).wellFormed = true ∧ (Instr.setr 14 0xFFFF).wellFormed = true ∧
    (Instr.bsrd 32).wellFormed = true ∧ (Instr.emov 31 31 3 3 3 3).wellFormed = true := by decide +kernel
theorem witness_EncodeOfDecodeIsTheWord :
    decode 0xA7FFFF00 = .ok (.emov 31 31 3 3 3 3) ∧ decode 0x04E0FFFF = .ok (.setr 14 0xFFFF) := by decide +kernel
/-- A reserved field, a reserved opcode, and the first values beyond two constraints. -/
theorem witness_IllegalWordsRaiseIllegalCommand :
    ∀ w ∈ [(0x00000001 : Word), 0x14000000, 0x04500000, 0x04F00000, 0x20000021],
      (running w).busy = true ∧ (running w).hostWaits ∧ ¬legalWord (running w).cmdlatch := by
  intro w hw
  refine ⟨rfl, running_waits w, ?_⟩
  simp only [List.mem_cons, List.not_mem_nil, or_false] at hw
  rintro ⟨mm, h, hm, hc⟩
  rcases hw with rfl | rfl | rfl | rfl | rfl
  · cases h
    revert hm
    decide
  · cases h
  · have := hc.1 (.inl (by decide +kernel))
    revert this
    decide
  · have := hc.1 (.inl (by decide +kernel))
    revert this
    decide
  · have := hc.2.1 (.inl (by decide +kernel))
    revert this
    decide
theorem witness_StepRunsTheDecodedCommand :
    ((running 0x44000000).busy = true ∧ (running 0x44000000).hostWaits ∧ decode (running 0x44000000).cmdlatch = .ok .bsmore) ∧
    decode (BitVec.ofNat 32 (0x44000000 % 2 ^ 32)) = .ok .bsmore ∧
    ((hosted r0 ⟨false, .read 8⟩).busy = false ∧ (hosted r0 ⟨false, .read 8⟩).host = [⟨false, .read 8⟩]) ∧
    r0.busy = false ∧ r0.host = [] :=
  ⟨⟨rfl, running_waits _, by decide +kernel⟩, by decide +kernel, ⟨rfl, rfl⟩, rfl, rfl⟩
/-- Clause by clause: dropped while busy, dropped with an error pending, accepted; at both ends of the word. -/
theorem witness_CmdWriteIsAcceptedOrDropped :
    ∀ off ∈ [12, 15], (word off).toNat / 4 = 3 ∧
      (let s := hosted (running 0) ⟨true, .write (word off) 0x44000000⟩
       s.host = [⟨true, .write (word off) 0x44000000⟩] ∧ s.busy = true) ∧
      (let s := hosted { r0 with err := true } ⟨false, .write (word off) 0x44000000⟩
       s.host = [⟨false, .write (word off) 0x44000000⟩] ∧ s.busy = false ∧ s.err = true) ∧
      (let s := hosted r0 ⟨false, .write (word off) 0x44000000⟩
       s.host = [⟨false, .write (word off) 0x44000000⟩] ∧ s.busy = false ∧ s.err = false) ∧
      decode 0x44000000 = .ok .bsmore := by decide +kernel
/-- A dropped write, a write to `STATUS` at both ends of its word, a read of `ID`, of `STATUS`, and of anything else. -/
theorem witness_BusAccessWhileBusy :
    ∀ a ∈ [HostAction.write 16 1, .write 0x10000 1, .write 0 1, .write 8 8, .write 11 0, .read 3, .read 8, .read 11, .read 4, .read 12, .read 0xFFFFFFFF],
      (hosted (running 0) ⟨true, a⟩).host = [⟨true, a⟩] ∧ (hosted (running 0) ⟨true, a⟩).busy = true := by decide +kernel
/-- A command runs and `DROP` is set: bit 3 clears it, and the other bits do nothing (10_state.md R55, R71). -/
theorem test_status_write_while_busy :
    [8, 0xFFFFFFF7].map (fun v => (nextOf (step (hosted { running 0 with drop := true } ⟨true, .write 8 (word v)⟩))).map
      (fun t => (t.drop, t.busy))) = [some (false, true), some (true, true)] := by decide +kernel
/-- Soft reset alone and over `ERRCLR`, `ERRCLR` alone, nothing; idle and while a command runs. -/
theorem witness_CtrlWriteResetsOrClearsError :
    ∀ p ∈ [(1, true, false), (3, true, true), (2, false, true), (0, false, false), (4, false, false)],
      (hosted r0 ⟨false, .write 4 (word p.1)⟩).host = [⟨false, .write 4 (word p.1)⟩] ∧
      (hosted (running 0) ⟨true, .write 7 (word p.1)⟩).host = [⟨true, .write 7 (word p.1)⟩] ∧
      (word p.1).getLsbD 0 = p.2.1 ∧ (word p.1).getLsbD 1 = p.2.2 ∧ (7 : Word).toNat / 4 = 1 := by decide +kernel
/-- The first and the last writable register, `STATUS`, and registers that ignore a write. -/
theorem witness_RegisterWriteStoresDefinedFields :
    (∀ off ∈ [24, 56, 59, 8, 0, 16, 60, 64, 0xFF], ∀ v ∈ [0, 8, 0xFFFFFFFF],
      (hosted r0 ⟨false, .write (word off) (word v)⟩).host = [⟨false, .write (word off) (word v)⟩] ∧ (hosted r0 ⟨false, .write (word off) (word v)⟩).busy = false) ∧
    (∀ off ∈ [24, 56, 59], 6 ≤ (word off).toNat / 4 ∧ (word off).toNat / 4 ≤ 14) ∧
    (∀ off ∈ [0, 16, 60, 64, 0xFF], (word off).toNat / 4 < 64 ∧ ¬(6 ≤ (word off).toNat / 4 ∧ (word off).toNat / 4 ≤ 14) ∧
      (word off).toNat / 4 ≠ 1 ∧ (word off).toNat / 4 ≠ 2 ∧ (word off).toNat / 4 ≠ 3) := by decide +kernel
/-- The first and the last offset of every window and of every hole, with a buffer of 64 bytes; frame stores at both ends,
idle and while a command runs. -/
theorem witness_MemoryWindowWrite :
    (∀ off v, (hosted r0 ⟨false, .write off v⟩).host = [⟨false, .write off v⟩] ∧ (hosted r0 ⟨false, .write off v⟩).busy = false ∧
      (hosted r0 ⟨false, .write off v⟩).params.bsbBytes = 64) ∧
    (∀ off ∈ [0x1000, 0x17FF], 0x1000 ≤ (word off).toNat ∧ (word off).toNat < 0x1800) ∧
    (∀ off ∈ [0x2000, 0x20FF], 0x2000 ≤ (word off).toNat ∧ (word off).toNat < 0x2100) ∧
    (∀ off ∈ [0x2100, 0x21FF], 0x2100 ≤ (word off).toNat ∧ (word off).toNat < 0x2200) ∧
    (∀ off ∈ [0x10000, 0x1003F], 0x10000 ≤ (word off).toNat ∧ (word off).toNat / 4 * 4 < 0x10000 + 64) ∧
    (∀ off ∈ [0x100, 0xFFF, 0x1800, 0x1FFF, 0x2200, 0xFFFF, 0x10040, 0xFFFFFFFF],
      (0x100 ≤ (word off).toNat ∧ (word off).toNat < 0x1000) ∨ (0x1800 ≤ (word off).toNat ∧ (word off).toNat < 0x2000) ∨
        (0x2200 ≤ (word off).toNat ∧ (word off).toNat < 0x10000) ∨ 0x10000 + 64 ≤ (word off).toNat / 4 * 4) ∧
    (∀ a ∈ [HostAction.supplyRef 0 0 1, .supplyRef 4095 4095 1, .supplyRec 0 0 1, .supplyRec 4095 4095 1],
      (hosted r0 ⟨false, a⟩).host = [⟨false, a⟩] ∧ (hosted r0 ⟨false, a⟩).busy = false ∧
      (let s := hosted (running 0x44000000) ⟨true, a⟩
       s.host = [⟨true, a⟩] ∧ s.busy = true ∧ decode s.cmdlatch = .ok .bsmore)) :=
  ⟨fun _ _ => ⟨rfl, rfl, rfl⟩, by decide +kernel, by decide +kernel, by decide +kernel, by decide +kernel, by decide +kernel, by decide +kernel⟩
/-- Idle reads: registers, a written and an unwritten element, written and unwritten bytes of `PRED`, `SRC` and `BSB`, a hole. -/
theorem witness_IdleReadReturnsTheWord :
    (∀ s off, (hosted s ⟨false, .read off⟩).host = [⟨false, .read off⟩]) ∧ r0.busy = false ∧
    (let s := { r0 with cb := [(511, 7)], pred := flatSamples 1, src := flatSamples 2, bsb := (List.range 512).map (fun k => (k, false)) }
     s.busy = false ∧ cellRead s.cb ((0x17FF - 0x1000) / 4) = some 7 ∧ cellRead s.cb ((0x1000 - 0x1000) / 4) = none ∧
     (∀ j : Fin 4, cellRead s.pred ((0x20FF - 0x2000) / 4 * 4 + j.val) = some 1) ∧
     (∀ j : Fin 4, cellRead s.src ((0x2100 - 0x2100) / 4 * 4 + j.val) = some 2) ∧
     (∀ j : Fin 4, ∀ n < 8, cellRead s.bsb (8 * ((0x1003C - 0x10000) / 4 * 4 + j.val) + n) = some ((0 : Byte).getLsbD (7 - n))) ∧
     0x1003C / 4 * 4 + 3 < 0x10000 + s.params.bsbBytes) ∧
    (∃ j < 4, cellRead r0.pred ((0x2000 - 0x2000) / 4 * 4 + j) = none) ∧
    (∃ j < 4, cellRead r0.src ((0x21FF - 0x2100) / 4 * 4 + j) = none) ∧
    (∃ j < 32, cellRead r0.bsb (8 * ((0x1003F - 0x10000) / 4 * 4) + j) = none) ∧
    (∀ off ∈ [0, 8, 16, 20, 60, 64, 68, 0xFF], (word off).toNat / 4 < 64) :=
  ⟨fun _ _ => rfl, rfl, by decide +kernel, by decide +kernel, by decide +kernel, by decide +kernel, by decide +kernel⟩
/-- The registers that no write reaches, and `STATUS`, as the host reads them while idle (10_state.md R55, R57, R58, R68, R69). -/
theorem test_idle_reads_of_status_registers :
    let s := { r0 with err := true, drop := true, errcode := .arithOverflow, errcmd := 1, errpos := 2, cvstat := 3, sae := 0x1FFFF }
    [8, 16, 20, 60, 64].map (fun off => (nextOf (step (hosted s ⟨false, .read (word off)⟩))).map (fun t => t.hostData)) =
      [some 0x60C, some 1, some 2, some 3, some 0x1FFFF] := by decide +kernel

/-! Every command, and the invariants of a step. -/

/-- A command that completes and one that ends in an error. -/
theorem witness_EveryCommandCompletesOrEndsInError :
    exec .bsmore r0 = .next { r0 with busy := false, done := true } ∧
    exec .rcopy r0 = .next (errorEnd r0 .invalidFieldValue 0) := ⟨rfl, rfl⟩
/-- A command for each error that a command raises. -/
theorem witness_ErrorsAreRaisedByTheirCommands :
    (Instr.setr 5 0).wellFormed = false ∧ exec (.setr 5 0) r0 = .next (errorEnd r0 .illegalCommand 0) ∧
    exec (.bsrd 1) r0 = .next (errorEnd r0 .bitstreamExhausted 0) ∧
    (let s := withStream r0 (List.replicate 32 0); exec .bsrdue s = .next (errorEnd s .malformedVlcCode 0)) ∧
    (let s := { r0 with sliceqp := 52 }; exec .qpdelta s = .next (errorEnd s .invalidFieldValue 0)) ∧
    (let s := onePicture r0; exec .mcopy s = .next (errorEnd s .contextNotWritten 0)) ∧
    (let s := withSlot r0 0 (List.replicate 16 (2 ^ 27)); exec (.fcore 1 0) s = .next (errorEnd s .arithOverflow 0)) :=
  ⟨by decide +kernel, next_of_nextOf (by decide +kernel), next_of_nextOf (by decide +kernel), next_of_nextOf (by decide +kernel),
    next_of_nextOf (by decide +kernel), next_of_nextOf (by decide +kernel), next_of_nextOf (by decide +kernel)⟩
/-- Commands that write none of the guarded states, and an error end. -/
theorem witness_CommandsWriteOnlyTheirState :
    exec .nop r0 = .next { r0 with busy := false, done := true } ∧ Instr.nop.setsRegister = false ∧ Instr.nop.writesRes = false ∧
    Instr.nop.writesBitpos = false ∧ Instr.nop.writesStream = false ∧ Instr.nop.writesCvstat = false ∧ Instr.nop ≠ .qpdelta ∧
    Instr.nop ≠ .ipsel ∧ Instr.nop.writesCb = false ∧ Instr.nop.writesPred = false ∧ Instr.nop.writesNcg = false ∧
    Instr.nop.writesMvg = false ∧ Instr.nop.writesRec = false :=
  ⟨rfl, by decide +kernel⟩
theorem not_inPicture_reset : ¬r0.inPicture := by
  rintro ⟨h, -⟩
  revert h
  decide +kernel
/-- The first value beyond each check, and a picture of no macroblocks. -/
theorem witness_ConfigurationChecks :
    (Instr.iquant 0 0 false).wellFormed = true ∧ 51 < ({ r0 with qp := 52 } : State).qp.toNat ∧ (Instr.iquant 0 0 false).readsQp = true ∧
    Instr.qpdelta.wellFormed = true ∧ 51 < ({ r0 with sliceqp := 52 } : State).sliceqp.toNat ∧
    Instr.mvpred.wellFormed = true ∧ ¬r0.inPicture ∧ Instr.mvpred.usesPicture = true :=
  ⟨by decide +kernel, by decide +kernel, by decide +kernel, by decide +kernel, by decide +kernel, by decide +kernel,
    not_inPicture_reset, by decide +kernel⟩
/-- The host reads `STATUS` after power-on: every invariant's hypotheses hold, and the step answers. -/
theorem witness_StepKeepsMemoryForm :
    Memory.wf (hosted r0 ⟨false, .read 8⟩) ∧ step (hosted r0 ⟨false, .read 8⟩) = .next r0 :=
  ⟨by decide +kernel, next_of_nextOf (by decide +kernel)⟩
/-- A cursor at the end of the buffer. -/
theorem witness_StepKeepsCursorInBuffer :
    let s := { running 0x40000000 with bitpos := 511, bitlen := 512 }
    s.params.wf = true ∧ s.cursorInBuffer ∧ ∃ t, step s = .next t ∧ t.bitpos = 512 := by
  refine ⟨by decide +kernel, by unfold State.cursorInBuffer; decide +kernel, ?_⟩
  have h : (nextOf (step { running 0x40000000 with bitpos := 511, bitlen := 512 })).map (fun t => t.bitpos) = some 512 := by decide +kernel
  obtain ⟨t, ht, hp⟩ := Option.map_eq_some_iff.mp h
  exact ⟨t, next_of_nextOf ht, hp⟩
/-- A command that ends in an error. -/
theorem witness_StepKeepsFlagsInAgreement :
    (running 0x00000001).flagsAgree ∧ ∃ t, step (running 0x00000001) = .next t ∧ t.err = true := by
  refine ⟨by unfold State.flagsAgree; decide +kernel, ?_⟩
  have h : (nextOf (step (running 0x00000001))).map (fun t => t.err) = some true := by decide +kernel
  obtain ⟨t, ht, hp⟩ := Option.map_eq_some_iff.mp h
  exact ⟨t, next_of_nextOf ht, hp⟩
/-- A clear of the last slot, with a full TotalCoeff in the grid. -/
theorem witness_StepKeepsEntriesInRange :
    let s := { running 0xABE00000 with cb := [(511, 1)], ncg := [(0, ⟨true, 16⟩)] }
    s.params.wf = true ∧ s.cursorInBuffer ∧ s.entriesInRange ∧ s.contextInRange ∧ ∃ t, step s = .next t := by
  refine ⟨by decide +kernel, by unfold State.cursorInBuffer; decide +kernel, by unfold State.entriesInRange; decide +kernel,
    by unfold State.contextInRange; decide +kernel, ?_⟩
  exact ⟨_, next_of_nextOf rfl⟩
/-- A soft reset while `CB` holds an element. -/
theorem witness_StepKeepsWrittenness :
    ∃ t, step (hosted { r0 with cb := [(511, 1)] } ⟨true, .write 4 1⟩) = .next t ∧ cellRead t.cb 511 = some 1 :=
  ⟨_, rfl, by decide +kernel⟩

/-! Control and moves. -/

theorem witness_SetrAndSetrhWriteOneRegister :
    (6 ≤ (6 : BitVec 6).toNat ∧ (14 : BitVec 6).toNat ≤ 14) ∧ ¬(6 ≤ (5 : BitVec 6).toNat ∧ (5 : BitVec 6).toNat ≤ 14) ∧
    ¬(6 ≤ (15 : BitVec 6).toNat ∧ (15 : BitVec 6).toNat ≤ 14) := by decide
theorem witness_QpdeltaWrapsModulo52 :
    ({ r0 with sliceqp := 51, opr := 0x80000000 } : State).sliceqp.toNat ≤ 51 ∧ 51 < ({ r0 with sliceqp := 52 } : State).sliceqp.toNat := by decide +kernel
theorem witness_EmovAndZeroWriteTheirElements :
    cellRead ({ r0 with cb := [(511, 9)] } : State).cb (16 * (31 : Slot).toNat + 4 * (3 : Two).toNat + (3 : Two).toNat) = some 9 ∧
    cellRead r0.cb (16 * (0 : Slot).toNat + 4 * (0 : Two).toNat + (0 : Two).toNat) = none := by decide +kernel

/-! Zig-zag. -/

/-- The block `4r + c` in slot 31. -/
def countUp : State := withSlot r0 31 [0, 1, 2, 3, 4, 5, 6, 7, 8, 9, 10, 11, 12, 13, 14, 15]

def countMatrix : Matrix4 := Matrix.of fun r c => 4 * (r.val : Int) + c.val

theorem countUp_is : countUp.slotIs 31 countMatrix := slotIs_of (by decide +kernel)

/-- A full slot; the four elements of a 2×2 block; an unwritten slot. -/
theorem witness_ZzfwdWritesScanOrder :
    countUp.slotIs 31 countMatrix ∧
    (let s := { r0 with cb := [(0, 1), (1, 2), (4, 3), (5, 4)] }
     let X : Matrix4 := !![1, 2, 0, 0; 3, 4, 0, 0; 0, 0, 0, 0; 0, 0, 0, 0]
     s.elemIs 0 0 0 (X 0 0) ∧ s.elemIs 0 0 1 (X 0 1) ∧ s.elemIs 0 1 0 (X 1 0) ∧ s.elemIs 0 1 1 (X 1 1)) ∧
    (∃ r c, countUp.elemUnwritten 0 r c) ∧ (∃ r c : Fin 4, r.val < 2 ∧ c.val < 2 ∧ countUp.elemUnwritten 0 r c) :=
  ⟨countUp_is, ⟨⟨1, by decide +kernel, by decide +kernel⟩, ⟨2, by decide +kernel, by decide +kernel⟩,
    ⟨3, by decide +kernel, by decide +kernel⟩, ⟨4, by decide +kernel, by decide +kernel⟩⟩,
    ⟨3, 3, by unfold State.elemUnwritten; decide +kernel⟩, ⟨1, 1, by decide, by decide, by unfold State.elemUnwritten; decide +kernel⟩⟩
/-- A full slot; the first row alone; an unwritten slot. -/
theorem witness_ZzinvRestoresRasterOrder :
    countUp.slotIs 31 countMatrix ∧
    (let s := { r0 with cb := [(0, 1), (1, 2), (2, 3), (3, 4)] }
     let q : Matrix4 := !![1, 2, 3, 4; 0, 0, 0, 0; 0, 0, 0, 0; 0, 0, 0, 0]
     ∀ c, s.elemIs 0 0 c (q 0 c)) ∧
    (∃ r c, countUp.elemUnwritten 0 r c) ∧ (∃ c, countUp.elemUnwritten 0 0 c) :=
  ⟨countUp_is, fun c => ⟨BitVec.ofNat 32 (c.val + 1), by revert c; decide +kernel, by revert c; decide +kernel⟩,
    ⟨3, 3, by unfold State.elemUnwritten; decide +kernel⟩, ⟨3, by unfold State.elemUnwritten; decide +kernel⟩⟩
theorem witness_ZigzagInvolution : countUp.slotIs 31 countMatrix := countUp_is

/-! The bit cursor. -/

theorem streamHolds_of {s : State} {pos : Nat} {code : List Bool}
    (h : ∀ i (hi : i < code.length), cellRead s.bsb (pos + i) = some code[i]) : s.streamHolds pos code := h

/-- A width of 33; 32 bits of 32 left, and one bit fewer; a field of ones; an unwritten bit. -/
theorem witness_FixedWidthRead :
    32 < (33 : BitVec 6).toNat ∧
    (let s := withStream r0 (List.replicate 32 1)
     (32 : BitVec 6).toNat ≤ 32 ∧ s.bitpos.toNat + (32 : BitVec 6).toNat ≤ s.bitlen.toNat ∧ (List.replicate 32 true).length = (32 : BitVec 6).toNat ∧
     s.streamHolds s.bitpos.toNat (List.replicate 32 true)) ∧
    (let s := withStream r0 (List.replicate 31 1); s.bitlen.toNat < s.bitpos.toNat + (32 : BitVec 6).toNat) ∧
    (let s := { r0 with bitlen := 1 }
     s.bitpos.toNat + (1 : BitVec 6).toNat ≤ s.bitlen.toNat ∧ ∃ i < (1 : BitVec 6).toNat, cellRead s.bsb (s.bitpos.toNat + i) = none) :=
  ⟨by decide, ⟨by decide, by decide +kernel, by decide, streamHolds_of (by decide +kernel)⟩, by decide +kernel, by decide +kernel⟩
/-- The shortest and the longest codeword, and the last value below and the first above 47. -/
theorem witness_ExpGolombReadValue :
    ∀ p ∈ [(0, 0), (5, 16), (5, 17), (31, 2 ^ 31 - 1)],
      let s := { r0 with bsb := bitEntries 0 (expGolomb p.1 p.2), bitlen := BitVec.ofNat 32 (2 * p.1 + 1) }
      p.1 ≤ 31 ∧ p.2 < 2 ^ p.1 ∧ s.bitpos.toNat + (2 * p.1 + 1) ≤ s.bitlen.toNat ∧
      s.streamHolds s.bitpos.toNat (expGolomb p.1 p.2) := by
  intro p hp
  simp only [List.mem_cons, List.not_mem_nil, or_false] at hp
  rcases hp with rfl | rfl | rfl | rfl <;>
    exact ⟨by decide +kernel, by decide +kernel, by decide +kernel, streamHolds_of (by decide +kernel)⟩
/-- The stream ends before any bit, after 31 zeros, inside a suffix of one bit, or inside one of 31; 32 zeros; an unwritten
bit at the first place, after 31 zeros, and at the end of a suffix of one bit and of one of 31. -/
theorem witness_ExpGolombReadErrors :
    (r0.streamHolds 0 (List.replicate 0 false) ∧ r0.bitlen.toNat ≤ r0.bitpos.toNat) ∧
    (let s := withStream r0 (List.replicate 31 0); s.streamHolds 0 (List.replicate 31 false) ∧ s.bitlen.toNat = s.bitpos.toNat + 31) ∧
    (let s := withStream r0 [0, 1]
     s.streamHolds 0 (List.replicate 1 false ++ [true]) ∧ s.bitpos.toNat + 1 + 1 ≤ s.bitlen.toNat ∧ s.bitlen.toNat < s.bitpos.toNat + (2 * 1 + 1)) ∧
    (let s := withStream r0 (List.replicate 31 0 ++ List.replicate 31 1)
     s.streamHolds 0 (List.replicate 31 false ++ [true]) ∧ s.bitpos.toNat + 31 + 1 ≤ s.bitlen.toNat ∧ s.bitlen.toNat < s.bitpos.toNat + (2 * 31 + 1)) ∧
    (let s := withStream r0 (List.replicate 32 0); s.streamHolds 0 (List.replicate 32 false) ∧ s.bitpos.toNat + 32 ≤ s.bitlen.toNat) ∧
    (∀ L ∈ [0, 31], let s := { withStream r0 (List.replicate L 0) with bitlen := BitVec.ofNat 32 (L + 1) }
      s.streamHolds 0 (List.replicate L false) ∧ s.bitpos.toNat + L < s.bitlen.toNat ∧ cellRead s.bsb (s.bitpos.toNat + L) = none) ∧
    (∀ L ∈ [1, 31], let s := { withStream r0 (List.replicate L 0 ++ List.replicate L 1) with bitlen := BitVec.ofNat 32 (2 * L + 1) }
      s.streamHolds 0 (List.replicate L false ++ [true]) ∧ s.bitpos.toNat + (2 * L + 1) ≤ s.bitlen.toNat ∧
        ∃ j < L, cellRead s.bsb (s.bitpos.toNat + (L + 1) + j) = none) :=
  ⟨⟨streamHolds_of (by decide +kernel), by decide +kernel⟩, ⟨streamHolds_of (by decide +kernel), by decide +kernel⟩,
    ⟨streamHolds_of (by decide +kernel), by decide +kernel, by decide +kernel⟩,
    ⟨streamHolds_of (by decide +kernel), by decide +kernel, by decide +kernel⟩,
    ⟨streamHolds_of (by decide +kernel), by decide +kernel⟩, fun L hL => by
      simp only [List.mem_cons, List.not_mem_nil, or_false] at hL
      rcases hL with rfl | rfl <;> exact ⟨streamHolds_of (by decide +kernel), by decide +kernel, by decide +kernel⟩, fun L hL => by
      simp only [List.mem_cons, List.not_mem_nil, or_false] at hL
      rcases hL with rfl | rfl <;> exact ⟨streamHolds_of (by decide +kernel), by decide +kernel, by decide +kernel⟩⟩
/-- A width of 33; 32 bits that end at the buffer's end, and one bit beyond. -/
theorem witness_BswrWritesTheField :
    r0.params.wf = true ∧ 32 < (33 : BitVec 6).toNat ∧ (32 : BitVec 6).toNat ≤ 32 ∧
    ({ r0 with bitpos := 480 } : State).bitpos.toNat + (32 : BitVec 6).toNat ≤ 8 * r0.params.bsbBytes ∧
    8 * r0.params.bsbBytes < ({ r0 with bitpos := 481 } : State).bitpos.toNat + (32 : BitVec 6).toNat := by decide +kernel
/-- The codewords of 0 and of the largest values, room and no room for them, the last pattern, and the values without one. -/
theorem witness_ExpGolombWrites :
    r0.params.wf = true ∧ 0 < 2 ^ 0 ∧ 2 ^ 31 - 1 < 2 ^ 31 ∧
    ((0 : Word).toNat + 1 = 2 ^ 0 + 0 ∧ (0xFFFFFFFE : Word).toNat + 1 = 2 ^ 31 + (2 ^ 31 - 1)) ∧
    ((0 : Word).toInt = signedOf (2 ^ 0 + 0 - 1) ∧ (0x7FFFFFFF : Word).toInt = signedOf (2 ^ 31 + (2 ^ 31 - 2) - 1) ∧
      (0x80000001 : Word).toInt = signedOf (2 ^ 31 + (2 ^ 31 - 1) - 1)) ∧
    ((patternOf true)[2 ^ 5 + 16 - 1]? = some (41 : Word).toNat ∧ (patternOf false)[2 ^ 0 + 0 - 1]? = some (0 : Word).toNat) ∧
    47 < (48 : Word).toNat ∧
    (r0.bitpos.toNat + (2 * 31 + 1) ≤ 8 * r0.params.bsbBytes ∧
      8 * r0.params.bsbBytes < ({ r0 with bitpos := 512 } : State).bitpos.toNat + (2 * 0 + 1)) := by decide +kernel
/-- Each write command completes. -/
theorem witness_StreamRoundTrip :
    ∀ i ∈ [Instr.bswrue, .bswrse, .bswrme true, .bswrme false, .bswr 32],
      ∃ t, exec i { r0 with opr := 5, bitpos := 100 } = .next t ∧ t.done = true := by
  intro i hi
  have h : (nextOf (exec i { r0 with opr := 5, bitpos := 100 })).map (fun t => t.done) = some true := by
    simp only [List.mem_cons, List.not_mem_nil, or_false] at hi
    rcases hi with rfl | rfl | rfl | rfl | rfl <;> decide +kernel
  obtain ⟨t, ht, hd⟩ := Option.map_eq_some_iff.mp h
  exact ⟨t, next_of_nextOf ht, hd⟩
/-- At a boundary and seven bits before one, with room and without. -/
theorem witness_AlignmentCommands :
    r0.params.wf = true ∧
    (let s := { r0 with bitpos := 505, bitlen := 512 }
     (s.bitpos.toNat + 7) % 8 = 0 ∧ s.bitpos.toNat + 7 ≤ s.bitlen.toNat ∧ s.bitpos.toNat ≤ bufferBits s ∧ s.bitlen.toNat ≤ bufferBits s) ∧
    (let s := { r0 with bitpos := 505, bitlen := 511 }; s.bitlen.toNat < s.bitpos.toNat + 7) ∧
    (let s := { r0 with bitpos := 512 }; (s.bitpos.toNat + 0) % 8 = 0 ∧ s.bitpos.toNat ≤ bufferBits s ∧ s.bitlen.toNat ≤ bufferBits s) ∧
    (let s := { r0 with bitpos := 504 }; (s.bitpos.toNat + 1 + 7) % 8 = 0 ∧ s.bitpos.toNat + 1 + 7 ≤ 8 * s.params.bsbBytes) ∧
    (let s := { r0 with bitpos := 512 }; (s.bitpos.toNat + 1 + 7) % 8 = 0 ∧ 8 * s.params.bsbBytes < s.bitpos.toNat + 1 + 7) := by decide +kernel

/-! CAVLC and the nC grid. -/

/-- A codeword at the place it is read, a read that answers, and the ends of the total_zeros tables. -/
theorem witness_VlcTablesAreShared :
    vlcCode ct0 (0, 0) = some [true] ∧
    (let s := withStream r0 [1]
     s.streamHolds 0 [true] ∧ 0 + [true].length ≤ s.bitlen.toNat ∧ vlcRead s ct0 0 = .ok ((0, 0), 1)) ∧
    1 < (blockOrder .m16).length ∧ 15 < (blockOrder .m16).length ∧ 14 < (blockOrder .m15).length ∧ 3 < (blockOrder .m4).length :=
  ⟨by decide +kernel, ⟨streamHolds_of (by decide +kernel), by decide +kernel, by decide +kernel⟩, by decide⟩

theorem inPicture_of {s : State}
    (h : 1 ≤ wmbs s ∧ wmbs s ≤ s.params.maxWMbs ∧ 1 ≤ hmbs s ∧ hmbs s ≤ s.params.maxHMbs ∧ mbx s < wmbs s ∧ mby s < hmbs s) :
    s.inPicture := h

/-- Macroblock (1,0) of a 2×2 picture, whose left neighbour's blocks hold TotalCoeff 4 in every plane. -/
def withLeft : State :=
  { twoPicture r0 1 0 with ncg := [(3, ⟨true, 4⟩), (1027, ⟨true, 4⟩), (2 ^ 20 + 1, ⟨true, 4⟩), (2 ^ 21 + 1, ⟨true, 16⟩)] }

theorem withLeft_gridContext : withLeft.gridContextIs .y 0 0 4 :=
  ⟨some 4, none, ⟨fun _ => ⟨⟨true, 4⟩, by decide +kernel, rfl, rfl⟩, fun h => absurd (by decide +kernel) h⟩,
    ⟨fun h => absurd h (by decide +kernel), fun _ => rfl⟩, by decide +kernel⟩

/-- The three ways to nC: chroma DC, `NCREG`, the grid with write-back. -/
theorem witness_contextReady :
    r0.contextReady .m4 none false 0 0 false (-1) ∧
    ({ r0 with ncreg := 255 } : State).contextReady .m16 (some .cr) true 1 1 false 255 ∧
    withLeft.contextReady .m15 (some .y) false 0 0 true 4 :=
  ⟨⟨by decide, by simp, fun _ => rfl, by simp, by simp⟩,
    ⟨by decide, by simp, by simp, fun p hp _ => by decide +kernel, by simp⟩,
    ⟨by decide, fun _ => inPicture_of (by decide +kernel), by simp, by simp, fun p hp _ => by
      cases hp
      exact ⟨4, withLeft_gridContext, rfl⟩⟩⟩
/-- The worked block of R316, and a block that is not encodable. -/
theorem test_blockCode_is_the_example_of_R316 :
    blockCode [-2, 4, 3, -3, 0, 0, -1, 0, 0, 0, 0, 0, 0, 0, 0, 0] 0 .m16 =
      some (digits [0, 0, 0, 0, 0, 0, 0, 1, 1, 0, 1, 0, 0, 0, 1, 0, 0, 1, 0, 0, 0, 0, 1, 0, 1, 1, 1, 0, 0, 1, 1, 0, 0]) ∧
    blockCode (5000 :: List.replicate 15 0) 0 .m16 = none := by decide +kernel

theorem elems_of {s : State} {l : List Int} (h : ∀ k (h : k < (blockOrder .m16).length),
    (cellRead s.cb (16 * (0 : Slot).toNat + 4 * (blockOrder .m16)[k].1.val + (blockOrder .m16)[k].2.val)).map BitVec.toInt = some (l.getD k 0)) :
    ∀ k (h : k < (blockOrder .m16).length), s.elemIs 0 (blockOrder .m16)[k].1 (blockOrder .m16)[k].2 (l.getD k 0) := by
  intro k hk
  obtain ⟨v, hv, hx⟩ := Option.map_eq_some_iff.mp (h k hk)
  exact ⟨v, hv, hx⟩

theorem reset_contextReady (s : State) (h : s.ncreg = 0) : s.contextReady .m16 (some .y) true 0 0 false 0 :=
  ⟨by decide, by simp, by simp, fun _ _ _ => by simp [h], by simp⟩

/-- In the buffer of `State.reset`: the code `1` of the all-zero block at the last bit and one beyond it; the largest level that
always has a code; a level that has none; an unwritten element. -/
theorem witness_CavlcencWritesTheBlock :
    r0.params.wf = true ∧ (∀ s : State, s.ncreg = 0 → s.contextReady .m16 (some .y) true 0 0 false 0) ∧
    (∀ x ∈ [(0 : Int), 2063, -2063, 5000], (x :: List.replicate 15 0).length = (blockOrder .m16).length ∧
      ∀ k (h : k < (blockOrder .m16).length),
        (withSlot r0 0 [x]).elemIs 0 (blockOrder .m16)[k].1 (blockOrder .m16)[k].2 ((x :: List.replicate 15 0).getD k 0)) ∧
    (blockCode (0 :: List.replicate 15 0) 0 .m16 = some [true] ∧
      ({ r0 with bitpos := 511 } : State).bitpos.toNat + [true].length ≤ 8 * r0.params.bsbBytes ∧
      8 * r0.params.bsbBytes < ({ r0 with bitpos := 512 } : State).bitpos.toNat + [true].length) ∧
    (∀ x ∈ [(2063 : Int), -2063], ∀ c ∈ x :: List.replicate 15 0, c.natAbs ≤ 2063) ∧
    blockCode (5000 :: List.replicate 15 0) 0 .m16 = none ∧
    (∃ rc ∈ blockOrder .m16, r0.elemUnwritten 0 rc.1 rc.2) := by
  refine ⟨by decide +kernel, reset_contextReady, ?_, by decide +kernel, by decide +kernel, by decide +kernel,
    ⟨(0, 0), by decide, by unfold State.elemUnwritten; decide +kernel⟩⟩
  intro x hx
  simp only [List.mem_cons, List.not_mem_nil, or_false] at hx
  rcases hx with rfl | rfl | rfl | rfl <;> exact ⟨by decide +kernel, elems_of (by decide +kernel)⟩
/-- The 24 bits of the first vector of section 1.4: the block that is read, and its code again. -/
theorem witness_CavlcdecReadsTheBlock :
    let code := digits [0, 0, 0, 0, 1, 0, 0, 0, 1, 1, 1, 0, 0, 1, 0, 1, 1, 1, 1, 0, 1, 1, 0, 1]
    let s := withStream r0 [0, 0, 0, 0, 1, 0, 0, 0, 1, 1, 1, 0, 0, 1, 0, 1, 1, 1, 1, 0, 1, 1, 0, 1]
    let coeff : List Int := [0, 3, 0, 1, -1, -1, 0, 1, 0, 0, 0, 0, 0, 0, 0, 0]
    s.contextReady .m16 (some .y) true 0 0 false 0 ∧
    s.blockAt 0 .m16 = .ok ⟨[1, -1, -1, 1, 3], [1, 0, 0, 1, 1], 3, 24⟩ ∧ coeff.length = (blockOrder .m16).length ∧
    blockCode coeff 0 .m16 = some code ∧ s.streamHolds s.bitpos.toNat code ∧ s.bitpos.toNat + code.length ≤ s.bitlen.toNat :=
  ⟨reset_contextReady _ rfl, by decide +kernel, by decide +kernel, by decide +kernel, streamHolds_of (by decide +kernel), by decide +kernel⟩
/-- A stream for each way reading ends without a block, worked out from R286, R292 .. R304: the place recorded is the failing
element's first bit. -/
theorem witness_CavlcdecReadsTheBlock_errors :
    (∀ s : State, s.ncreg = 0 → s.contextReady .m16 (some .y) true 0 0 false 0) ∧
    r0.blockAt 0 .m16 = .error (.raise .bitstreamExhausted 0) ∧
    (withStream r0 (List.replicate 16 0)).blockAt 0 .m16 = .error (.raise .malformedVlcCode 0) ∧
    (withStream r0 [0, 0, 0, 0, 1, 0]).blockAt 8 .m16 = .error (.raise .malformedVlcCode 0) ∧
    (withStream r0 [1, 1, 1, 1, 0, 0]).blockAt 8 .m15 = .error (.raise .invalidFieldValue 0) ∧
    (withStream r0 [0, 1]).blockAt 0 .m16 = .error (.raise .bitstreamExhausted 2) ∧
    (withStream r0 ([0, 0, 0, 1, 0, 1] ++ List.replicate 16 0)).blockAt 0 .m16 = .error (.raise .malformedVlcCode 6) ∧
    (withStream r0 ([0, 0, 0, 1, 0, 1] ++ List.replicate 15 0 ++ [1, 0])).blockAt 0 .m16 = .error (.raise .bitstreamExhausted 6) ∧
    (withStream r0 [0, 1, 0, 0, 0, 0, 0, 0, 0, 0, 0, 1]).blockAt 0 .m15 = .error (.raise .invalidFieldValue 3) ∧
    (withStream r0 ([0, 0, 1, 0, 0] ++ [0, 0, 1, 1] ++ [0, 0, 0, 0, 0, 0, 0, 1])).blockAt 0 .m16 = .error (.raise .invalidFieldValue 9) ∧
    ({ r0 with bitlen := 1 } : State).blockAt 0 .m16 = .error (.fault .undefinedRead) :=
  ⟨reset_contextReady, by decide +kernel⟩
/-- `CAVLCENC` completes with the grid's context and write-back; then the same context comes from the grid again. -/
theorem witness_CavlcRoundTrip :
    withLeft.params.wf = true ∧ (withSlot withLeft 3 [10, -1, 0, 1]).contextReady .m16 (some .y) false 0 0 true 4 ∧
    ∃ t, exec (.cavlcenc 3 .m16 (some .y) false 0 0 true) (withSlot withLeft 3 [10, -1, 0, 1]) = .next t ∧ t.done = true ∧
      State.contextReady { t with bitpos := withLeft.bitpos } .m16 (some .y) false 0 0 true 4 := by
  have ready : ∀ s : State, 1 ≤ wmbs s ∧ wmbs s ≤ s.params.maxWMbs ∧ 1 ≤ hmbs s ∧ hmbs s ≤ s.params.maxHMbs ∧ mbx s < wmbs s ∧ mby s < hmbs s →
      s.gridContextIs .y 0 0 4 → s.contextReady .m16 (some .y) false 0 0 true 4 := fun s h hc =>
    ⟨by decide, fun _ => inPicture_of h, by simp, by simp, fun p hp _ => by
      cases hp
      exact ⟨4, hc, rfl⟩⟩
  refine ⟨by decide +kernel, ready _ (by decide +kernel) withLeft_gridContext, _, rfl, by decide +kernel, ready _ (by decide +kernel) ?_⟩
  exact ⟨some 4, none, ⟨fun _ => ⟨⟨true, 4⟩, by decide +kernel, rfl, rfl⟩, fun h => absurd (by decide +kernel) h⟩,
    ⟨fun h => absurd h (by decide +kernel), fun _ => rfl⟩, by decide +kernel⟩
/-- A missing left neighbour, a missing upper one, a missing own cell. -/
theorem witness_UnwrittenContextIsRejected :
    blockInPlane .cb 1 1 = true ∧ (twoPicture r0 1 1).inPicture ∧
    (twoPicture r0 1 1).neighbourMissing .cb (0 < cellX (twoPicture r0 1 1) .cb 1) (cellX (twoPicture r0 1 1) .cb 1 - 1) (cellY (twoPicture r0 1 1) .cb 1) ∧
    (twoPicture r0 0 1).neighbourMissing .y (0 < cellY (twoPicture r0 0 1) .y 0) (cellX (twoPicture r0 0 1) .y 0) (cellY (twoPicture r0 0 1) .y 0 - 1) ∧
    (twoPicture r0 1 1).neighbourMissing .cb True (cellX (twoPicture r0 1 1) .cb 1) (cellY (twoPicture r0 1 1) .cb 1) := by
  refine ⟨by decide, inPicture_of (by decide +kernel), ⟨by decide +kernel, ?_⟩, ⟨by decide +kernel, ?_⟩, trivial, ?_⟩ <;>
    (intro c hc; cases hc)
/-- A context from the grid, and a cell of its own. -/
theorem witness_NcgetReturnsTheContext :
    blockInPlane .y 0 0 = true ∧ withLeft.inPicture ∧ withLeft.contextInRange ∧ withLeft.gridContextIs .y 0 0 4 ∧
    (let s := { onePicture r0 with ncg := [(2 ^ 21 + 1025, ⟨true, 16⟩)] }
     s.inPicture ∧ s.contextInRange ∧ blockInPlane .cr 1 1 = true ∧
     cellRead s.ncg (ncKey .cr (cellX s .cr (1 : Two).toNat) (cellY s .cr (1 : Two).toNat)) = some ⟨true, 16⟩) :=
  ⟨by decide, inPicture_of (by decide +kernel), by unfold State.contextInRange; decide +kernel, withLeft_gridContext,
    inPicture_of (by decide +kernel), by unfold State.contextInRange; decide +kernel, by decide, by decide +kernel⟩
/-- Illegal fields; no picture; a context of 17; 16 cells of a plane, one cell, all 24. -/
theorem witness_NcsetWritesTheNamedCells :
    ncsetFieldsOk none 0 0 false = false ∧ ncsetFieldsOk (some .y) 3 3 false = true ∧ ncsetFieldsOk (some .cb) 0 0 true = true ∧
    ncsetFieldsOk none 0 0 true = true ∧ ¬(r0.inPicture ∧ r0.ncreg.toNat ≤ 16) ∧
    ((onePicture { r0 with ncreg := 16 }).inPicture ∧ (onePicture { r0 with ncreg := 16 }).ncreg.toNat ≤ 16) ∧
    ¬((onePicture { r0 with ncreg := 17 }).inPicture ∧ (onePicture { r0 with ncreg := 17 }).ncreg.toNat ≤ 16) :=
  ⟨by decide, by decide, by decide, by decide, fun h => not_inPicture_reset h.1,
    ⟨inPicture_of (by decide +kernel), by decide +kernel⟩, fun h => by
      have := h.2
      revert this
      decide +kernel⟩

/-! Transforms. -/

/-- A slot with one element unwritten, in a state whose `QP` is legal. -/
theorem witness_TransformsFaultOnUnwrittenSource :
    ∃ r c, ({ r0 with cb := (List.range 15).map (fun k => (k, 1)), qp := 51 } : State).elemUnwritten 0 r c ∧
      ({ r0 with cb := (List.range 15).map (fun k => (k, 1)), qp := 51 } : State).qp.toNat ≤ 51 :=
  ⟨3, 3, by unfold State.elemUnwritten; decide +kernel, by decide +kernel⟩

theorem fitsSlot_iff (x : Int) : fitsSlot x ↔ (decide (-2147483648 ≤ x) && decide (x ≤ 2147483647)) = true := by
  simp [fitsSlot]

theorem roundsTo_iff (x : Int) (k : Nat) (z : Int) :
    roundsTo .halfAway x k z ↔ decide (z = (if 0 ≤ x then 1 else -1) * ((|x| + 2 ^ (k - 1)) / 2 ^ k)) = true := by
  simp [roundsTo]

/-- A slot of one value everywhere, and its matrix. -/
def flatSlot (v : Int) (q : BitVec 6) : State := { withSlot r0 0 (List.replicate 16 v) with qp := q }

def flatMatrix (v : Int) : Matrix4 := Matrix.of fun _ _ => v

theorem flatSlot_is_ones (q : BitVec 6) : (flatSlot 1 q).slotIs 0 (flatMatrix 1) := by
  apply slotIs_of
  show ∀ r c : Fin 4, (cellRead (withSlot r0 0 (List.replicate 16 1)).cb (16 * (0 : Slot).toNat + 4 * r.val + c.val)).map BitVec.toInt = some 1
  decide +kernel

theorem flatSlot_is_least (q : BitVec 6) : (flatSlot (-2147483648) q).slotIs 0 (flatMatrix (-2147483648)) := by
  apply slotIs_of
  show ∀ r c : Fin 4, (cellRead (withSlot r0 0 (List.replicate 16 (-2147483648))).cb (16 * (0 : Slot).toNat + 4 * r.val + c.val)).map
    BitVec.toInt = some (-2147483648)
  decide +kernel

/-- A block whose transform fits, and the block of least elements, whose transform does not. -/
theorem witness_FcoreIsTheCoreTransform :
    ((flatSlot 1 0).slotIs 0 (flatMatrix 1) ∧ ∀ r c, fitsSlot ((coreOf * flatMatrix 1 * coreOf.transpose) r c)) ∧
    ((flatSlot (-2147483648) 0).slotIs 0 (flatMatrix (-2147483648)) ∧
      ∃ r c, ¬fitsSlot ((coreOf * flatMatrix (-2147483648) * coreOf.transpose) r c)) :=
  ⟨⟨flatSlot_is_ones 0, by simp only [fitsSlot_iff]; decide +kernel⟩,
    ⟨flatSlot_is_least 0, 0, 0, by simp only [fitsSlot_iff]; decide +kernel⟩⟩
theorem witness_FquantRoundsTheScaledBlock : (flatSlot 1 51).qp.toNat ≤ 51 ∧ (flatSlot 1 51).slotIs 0 (flatMatrix 1) :=
  ⟨by decide +kernel, flatSlot_is_ones 51⟩
/-- Quotients of 0 at `QP = 51`; at `QP = 0`, `-2^35 * 13107 / 2^17`, which does not fit. -/
theorem witness_FhadqQuantizesTheHadamardTransform :
    ((flatSlot 1 51).qp.toNat ≤ 51 ∧ (flatSlot 1 51).slotIs 0 (flatMatrix 1) ∧
      (∀ r c, roundsTo .halfAway ((hadamardOf * flatMatrix 1 * hadamardOf) r c * forwardFactor 51 0) (15 + 51 / 6 + 2) (flatMatrix 0 r c)) ∧
      ∀ r c, fitsSlot (flatMatrix 0 r c)) ∧
    (let Z : Matrix4 := !![-3435921408, 0, 0, 0; 0, 0, 0, 0; 0, 0, 0, 0; 0, 0, 0, 0]
     (flatSlot (-2147483648) 0).qp.toNat ≤ 51 ∧ (flatSlot (-2147483648) 0).slotIs 0 (flatMatrix (-2147483648)) ∧
      (∀ r c, roundsTo .halfAway ((hadamardOf * flatMatrix (-2147483648) * hadamardOf) r c * forwardFactor 0 0) (15 + 0 / 6 + 2) (Z r c)) ∧
      ∃ r c, ¬fitsSlot (Z r c)) :=
  ⟨⟨by decide +kernel, flatSlot_is_ones 51, by simp only [roundsTo_iff]; decide +kernel, by simp only [fitsSlot_iff]; decide +kernel⟩,
    by decide +kernel, flatSlot_is_least 0, by simp only [roundsTo_iff]; decide +kernel, 0, 0, by simp only [fitsSlot_iff]; decide +kernel⟩
/-- Scaled elements that fit at `QP = 0`, and that do not, with and without `dc`. -/
theorem witness_IquantScalesTheBlock :
    (flatSlot 1 0).qp.toNat ≤ 51 ∧ (flatSlot 1 0).slotIs 0 (flatMatrix 1) ∧
    (∀ r c, fitsSlot (flatMatrix 1 r c * inverseFactor 0 (classOf r c) * 2 ^ (0 / 6))) ∧
    (flatSlot (-2147483648) 0).slotIs 0 (flatMatrix (-2147483648)) ∧
    (∃ r c : Fin 4, ¬(r = 0 ∧ c = 0) ∧ ¬fitsSlot (flatMatrix (-2147483648) r c * inverseFactor 0 (classOf r c) * 2 ^ (0 / 6))) :=
  ⟨by decide +kernel, flatSlot_is_ones 0, by simp only [fitsSlot_iff]; decide +kernel, flatSlot_is_least 0, 0, 1, by decide,
    by simp only [fitsSlot_iff]; decide +kernel⟩
theorem witness_IdctIsTheInverseTransform : (flatSlot (-2147483648) 0).slotIs 0 (flatMatrix (-2147483648)) := flatSlot_is_least 0
/-- On each side of the split at `QP = 12`, and at both ends; a scaled block that does not fit. -/
theorem witness_IhadqScalesTheHadamardTransform :
    (∀ q ∈ [(0 : Nat), 11, 12, 51], (BitVec.ofNat 6 q).toNat ≤ 51 ∧ ∀ r c, fitsSlot (dcScaled q ((hadamardOf * flatMatrix 1 * hadamardOf) r c))) ∧
    (∀ q, (flatSlot 1 q).slotIs 0 (flatMatrix 1)) ∧ (∀ q, (flatSlot (-2147483648) q).slotIs 0 (flatMatrix (-2147483648))) ∧
    (∃ r c, ¬fitsSlot (dcScaled 12 ((hadamardOf * flatMatrix (-2147483648) * hadamardOf) r c))) :=
  ⟨by simp only [fitsSlot_iff]; decide +kernel, flatSlot_is_ones, flatSlot_is_least, 0, 0, by simp only [fitsSlot_iff]; decide +kernel⟩
/-- A residual that fits, one that does not, and an all-zero coefficient slot. -/
theorem witness_PresReconstructsTheResidual :
    (flatSlot 1 0).qp.toNat ≤ 51 ∧ (flatSlot 1 0).slotIs 0 (flatMatrix 1) ∧
    (∀ r c, fitsSlot (inverseOf (presSum (List.replicate 16 1) 0 (flatMatrix 1) (flatMatrix 1)) r c)) ∧
    (flatSlot (-2147483648) 51).qp.toNat ≤ 51 ∧ (flatSlot (-2147483648) 51).slotIs 0 (flatMatrix (-2147483648)) ∧
    (∃ r c, ¬fitsSlot (inverseOf (presSum (List.replicate 16 1) 51 (flatMatrix (-2147483648)) (flatMatrix (-2147483648))) r c)) ∧
    (withSlot countUp 0 []).slotIs 0 0 ∧ (withSlot countUp 0 []).slotIs 31 countMatrix :=
  ⟨by decide +kernel, flatSlot_is_ones 0, by simp only [fitsSlot_iff]; decide +kernel, by decide +kernel, flatSlot_is_least 51,
    ⟨0, 0, by simp only [fitsSlot_iff]; decide +kernel⟩, slotIs_of (by decide +kernel), slotIs_of (by decide +kernel)⟩

/-! Prediction and motion. -/

/-- A frame that holds `v` in rows 0 .. 31 and columns 0 .. 31. -/
def flatFrame (v : Byte) : Cells Byte := (List.range 32).flatMap (fun y => (List.range 32).map (fun x => (y * 4096 + x, v)))

theorem flatFrame_is {v : Byte} {y x : Nat} (hy : y < 32) (hx : x < 32) : sampleIs (flatFrame v) (frameKey y x) v.toNat := by
  refine ⟨v, ?_, rfl⟩
  have row : ∀ n, n ≤ 32 → cellRead ((List.range n).flatMap (fun y => (List.range 32).map (fun x => (y * 4096 + x, v)))) (frameKey y x)
      = if y < n then some v else none := by
    intro n
    induction n with
    | zero => intro _; rfl
    | succ n ih =>
      intro hn
      rw [List.range_succ (n := n), List.flatMap_append, cellRead_append, ih (by omega), List.flatMap_singleton, cellRead_range_map]
      unfold frameKey
      split_ifs <;> first | rfl | omega
  rw [flatFrame, row 32 (by omega), if_pos hy]

/-- Macroblock (1,1) of a 2×2 picture with every neighbour at 7, and macroblock (0,0) without neighbours. -/
theorem witness_IpredFormsThePrediction :
    (let s := { twoPicture r0 1 1 with recFrame := flatFrame 7 }
     s.inPicture ∧ s.intraIs (fun _ => 7) (fun _ => 7) 7 ∧ (∀ mode, s.modeAvailable mode)) ∧
    (let s := onePicture r0
     s.inPicture ∧ s.intraIs (fun _ => 0) (fun _ => 0) 0 ∧ s.modeAvailable 2 ∧ ¬s.modeAvailable 0 ∧ ¬s.modeAvailable 1 ∧ ¬s.modeAvailable 3) ∧
    (twoPicture r0 1 1).inPicture ∧ (twoPicture r0 1 1).intraUnwritten := by
  refine ⟨⟨inPicture_of (by decide +kernel), ⟨fun _ x hx => flatFrame_is (v := 7) (by decide +kernel) ?_,
      fun _ y hy => flatFrame_is (v := 7) ?_ (by decide +kernel), fun _ _ => flatFrame_is (v := 7) (by decide +kernel) (by decide +kernel)⟩, ?_⟩,
    ⟨inPicture_of (by decide +kernel), ⟨fun h => absurd h (by decide +kernel), fun h => absurd h (by decide +kernel),
      fun h => absurd h (by decide +kernel)⟩, ?_, ?_, ?_, ?_⟩, inPicture_of (by decide +kernel), ?_⟩
  · show 16 * 1 + x < 32
    omega
  · show 16 * 1 + y < 32
    omega
  all_goals first
    | (unfold State.modeAvailable; decide +kernel)
    | (exact .inl ⟨by decide +kernel, 0, by decide, by decide +kernel⟩)
theorem witness_IpselChoosesTheLeastError :
    let s := onePicture { r0 with src := flatSamples 130 }
    s.inPicture ∧ s.intraIs (fun _ => 0) (fun _ => 0) 0 ∧ (∀ y < 16, ∀ x < 16, sampleIs s.src (16 * y + x) 130) ∧
    ((onePicture r0).inPicture ∧ ∃ k < 256, cellRead (onePicture r0).src k = none) ∧
    (twoPicture r0 1 1).inPicture ∧ (twoPicture r0 1 1).intraUnwritten :=
  ⟨inPicture_of (by decide +kernel), ⟨fun h => absurd h (by decide +kernel), fun h => absurd h (by decide +kernel),
    fun h => absurd h (by decide +kernel)⟩, fun y hy x hx => sampleIs_flat (v := 130) (by omega),
    ⟨inPicture_of (by decide +kernel), 255, by decide, rfl⟩, inPicture_of (by decide +kernel), .inl ⟨by decide +kernel, 0, by decide, by decide +kernel⟩⟩

theorem blockSample_flat {v : Byte} (bx byy : Two) (r c : Fin 4) : blockSampleIs (flatSamples v) bx byy r c v.toNat := by
  refine sampleIs_flat ?_
  have := bx.isLt
  have := byy.isLt
  omega

/-- Written blocks at the last position, and an unwritten sample. -/
theorem witness_RsubStoresTheResidual :
    (∀ r c, blockSampleIs (flatSamples 255) 3 3 r c (flatMatrix 255 r c)) ∧ (∀ r c, blockSampleIs (flatSamples 0) 3 3 r c (flatMatrix 0 r c)) ∧
    (∃ r c, blockSampleUnwritten r0.src 0 0 r c ∨ blockSampleUnwritten r0.pred 0 0 r c) :=
  ⟨blockSample_flat 3 3, blockSample_flat 3 3, 0, 0, .inl rfl⟩
/-- A block and a slot that are written; a full prediction; an unwritten element and an unwritten sample. -/
theorem witness_ReconAndRcopyWriteTheFrame :
    (let s := onePicture { withSlot r0 0 (List.replicate 16 1) with pred := flatSamples 255 }
     s.inPicture ∧ (∀ r c, blockSampleIs s.pred 3 3 r c (flatMatrix 255 r c)) ∧ s.slotIs 0 (flatMatrix 1) ∧
     (∀ y < 16, ∀ x < 16, sampleIs s.pred (16 * y + x) 255) ∧ (∃ r c, s.elemUnwritten 31 r c)) ∧
    (onePicture r0).inPicture ∧ (∃ r c, blockSampleUnwritten (onePicture r0).pred 3 3 r c) ∧ (∃ k < 256, cellRead (onePicture r0).pred k = none) :=
  ⟨⟨inPicture_of (by decide +kernel), blockSample_flat 3 3, slotIs_of (by decide +kernel), fun y hy x hx => sampleIs_flat (v := 255) (by omega),
    ⟨3, 3, by unfold State.elemUnwritten; decide +kernel⟩⟩, inPicture_of (by decide +kernel), ⟨3, 3, rfl⟩, ⟨255, by decide, rfl⟩⟩

/-- Macroblock (0,1) of a 2×2 picture: A outside, B and C written. -/
def withVectors : State := { twoPicture r0 0 1 with mvg := [(0, ⟨true, 3, 1⟩), (1, ⟨true, 7, 0xFFFB⟩)] }

/-- Two available vectors and an outside neighbour; none available; each of the three missing. -/
theorem witness_MvpredReturnsTheMedian :
    (withVectors.inPicture ∧ withVectors.vectorIs (0 < mbx withVectors) (mbx withVectors - 1) (mby withVectors) none ∧
      withVectors.vectorIs (0 < mby withVectors) (mbx withVectors) (mby withVectors - 1) (some (3, 1)) ∧
      withVectors.vectorIs (0 < mby withVectors ∧ mbx withVectors + 1 < wmbs withVectors) (mbx withVectors + 1) (mby withVectors - 1) (some (7, -5))) ∧
    ((onePicture r0).inPicture ∧ (onePicture r0).vectorIs (0 < mbx (onePicture r0)) (mbx (onePicture r0) - 1) (mby (onePicture r0)) none) ∧
    ((twoPicture r0 1 1).inPicture ∧ (twoPicture r0 1 1).vectorMissing (0 < mbx (twoPicture r0 1 1)) (mbx (twoPicture r0 1 1) - 1) (mby (twoPicture r0 1 1)) ∧
      (twoPicture r0 1 1).vectorMissing (0 < mby (twoPicture r0 1 1)) (mbx (twoPicture r0 1 1)) (mby (twoPicture r0 1 1) - 1)) ∧
    (twoPicture r0 0 1).vectorMissing (0 < mby (twoPicture r0 0 1) ∧ mbx (twoPicture r0 0 1) + 1 < wmbs (twoPicture r0 0 1)) (mbx (twoPicture r0 0 1) + 1)
      (mby (twoPicture r0 0 1) - 1) := by
  refine ⟨⟨inPicture_of (by decide +kernel), ⟨fun h => absurd h (by decide +kernel), fun _ => rfl⟩,
      ⟨fun _ => ⟨⟨true, 3, 1⟩, by decide +kernel, rfl, by decide +kernel⟩, fun h => absurd (by decide +kernel) h⟩,
      ⟨fun _ => ⟨⟨true, 7, 0xFFFB⟩, by decide +kernel, rfl, by decide +kernel⟩, fun h => absurd (by decide +kernel) h⟩⟩,
    ⟨inPicture_of (by decide +kernel), fun h => absurd h (by decide +kernel), fun _ => rfl⟩,
    ⟨inPicture_of (by decide +kernel), ⟨by decide +kernel, ?_⟩, ⟨by decide +kernel, ?_⟩⟩, ⟨by decide +kernel, ?_⟩⟩ <;>
    (intro c hc; cases hc)
theorem witness_MvsetStoresTheVector : (twoPicture r0 1 1).inPicture := inPicture_of (by decide +kernel)
/-- No vector; a vector and a written reference; a vector and an unwritten reference. -/
theorem witness_McopyCopiesTheDisplacedBlock :
    ((onePicture r0).inPicture ∧ (onePicture r0).vectorMissing True (mbx (onePicture r0)) (mby (onePicture r0))) ∧
    (let s := onePicture { r0 with mvg := [(0, ⟨true, 0x8000, 0x7FFF⟩)], refFrame := flatFrame 9 }
     s.inPicture ∧ cellRead s.mvg (mvKey (mbx s) (mby s)) = some ⟨true, 0x8000, 0x7FFF⟩ ∧
     ∀ y < 16, ∀ x < 16, sampleIs s.refFrame (referenceKey s (0x8000 : BitVec 16).toInt (0x7FFF : BitVec 16).toInt y x) 9) ∧
    (let s := onePicture { r0 with mvg := [(0, ⟨true, 0, 0⟩)] }
     s.inPicture ∧ ∃ y < 16, ∃ x < 16, cellRead s.refFrame (referenceKey s 0 0 y x) = none) := by
  refine ⟨⟨inPicture_of (by decide +kernel), trivial, fun c hc => by cases hc⟩,
    ⟨inPicture_of (by decide +kernel), by decide +kernel, fun y hy x hx => flatFrame_is (v := 9) ?_ ?_⟩,
    inPicture_of (by decide +kernel), 0, by decide, 0, by decide, rfl⟩
  · show (max (0 : Int) (min (16 * 1 - 1) (16 * 0 + y + 32767))).toNat < 32
    omega
  · show (max (0 : Int) (min (16 * 1 - 1) (16 * 0 + x + -32768))).toNat < 32
    omega
/-- A selection that completes, written source and prediction blocks, and a vector left of the current macroblock. -/
theorem witness_PredictionProperties :
    ((onePicture r0).inPicture ∧ mbx (onePicture r0) = 0 ∧ mby (onePicture r0) = 0) ∧
    (∃ t, exec .ipsel (onePicture { r0 with src := flatSamples 130 }) = .next t ∧ t.done = true) ∧
    (∀ r c, blockSampleIs (flatSamples 255) 3 3 r c (flatMatrix 255 r c)) ∧
    (let s := { twoPicture r0 1 0 with mvg := [(0, ⟨true, 4, 0xFFFE⟩)] }
     s.inPicture ∧ mby s = 0 ∧ 0 < mbx s ∧ cellRead s.mvg (mvKey (mbx s - 1) 0) = some ⟨true, 4, 0xFFFE⟩) := by
  refine ⟨⟨inPicture_of (by decide +kernel), by decide +kernel, by decide +kernel⟩, ?_, blockSample_flat 3 3,
    inPicture_of (by decide +kernel), by decide +kernel, by decide +kernel, by decide +kernel⟩
  have h : (nextOf (exec .ipsel (onePicture { r0 with src := flatSamples 130 }))).map (fun t => t.done) = some true := by decide +kernel
  obtain ⟨t, ht, hd⟩ := Option.map_eq_some_iff.mp h
  exact ⟨t, next_of_nextOf ht, hd⟩

end Sys2Proof.Tests
end

section
/-! What the parts of a command can answer and raise, as rules for `meets`: said once for each shared operation, each
read of storage and each reader of the stream. -/

namespace Sys2Proof.Machine

variable {α β : Type}

/-- Every answer of the computation has the property `Q`, and every error it raises has a code of its own
(60_exceptions.md R560); a fault answers nothing. -/
def meets (c : Cmd α) (Q : α → Prop) : Prop :=
  match c with
  | .ok a => Q a
  | .error (.raise e _) => e ≠ .none
  | .error (.fault _) => True

/-! Sequencing. -/

theorem meets_pure {Q : α → Prop} {a : α} (h : Q a) : meets (pure a) Q := h

theorem meets_raise {Q : α → Prop} {e : ErrCode} (he : e ≠ .none) (info : Nat) : meets (raise e info) Q := he

theorem meets_mono {P Q : α → Prop} {c : Cmd α} (hc : meets c P) (h : ∀ a, P a → Q a) : meets c Q := by
  match c, hc with
  | .ok a, ha => exact h a ha
  | .error (.raise _ _), he => exact he
  | .error (.fault _), _ => trivial

theorem meets_bind {P : α → Prop} {Q : β → Prop} {c : Cmd α} {f : α → Cmd β} (hc : meets c P)
    (hf : ∀ a, P a → meets (f a) Q) : meets (c >>= f) Q := by
  match c, hc with
  | .ok a, ha => exact hf a ha
  | .error (.raise _ _), he => exact he
  | .error (.fault _), _ => trivial

theorem meets_ite {Q : α → Prop} {p : Prop} [Decidable p] {c d : Cmd α} (hc : p → meets c Q) (hd : ¬p → meets d Q) :
    meets (if p then c else d) Q := by
  split_ifs with h
  · exact hc h
  · exact hd h

/-! Checks. -/

theorem meets_require {ok : Bool} {e : ErrCode} (he : e ≠ .none) (info : Nat) :
    meets (require ok e info) (fun _ => ok = true) := by
  cases ok
  · exact he
  · rfl

theorem meets_legal (ok : Bool) (s : State) : meets (legal ok s) (fun _ => ok = true) := meets_require (by decide) _

theorem meets_checkQp (s : State) : meets (checkQp s) (fun _ => True) :=
  meets_mono (meets_require (by decide) _) fun _ _ => trivial

theorem meets_checkPicture (s : State) : meets (checkPicture s) (fun _ => True) :=
  meets_bind (meets_require (by decide) _) fun _ _ => meets_mono (meets_require (by decide) _) fun _ _ => trivial

theorem meets_needBits (s : State) (start pos n : Nat) :
    meets (needBits s start pos n) (fun _ => pos + n ≤ s.bitlen.toNat) :=
  meets_mono (meets_require (by decide) _) fun _ h => of_decide_eq_true h

/-! Reads of storage. -/

theorem meets_written (o : Option α) : meets (written o) (fun _ => True) := by
  cases o <;> trivial

theorem meets_readEach {f : β → Cmd α} (hf : ∀ b, meets (f b) (fun _ => True)) (l : List β) :
    meets (readEach f l) (fun vs => vs.length = l.length) := by
  induction l with
  | nil => rfl
  | cons b l ih =>
    refine meets_bind (hf b) fun v _ => meets_bind ih fun vs hvs => meets_pure ?_
    simpa using hvs

theorem meets_readElem (s : State) (slot : Slot) (k : Nat) : meets (readElem s slot k) (fun _ => True) :=
  meets_bind (meets_written _) fun _ _ => trivial

theorem meets_readSlot (s : State) (slot : Slot) : meets (readSlot s slot) (fun _ => True) :=
  meets_mono (meets_readEach (meets_readElem s slot) _) fun _ _ => trivial

theorem meets_readSample (m : Cells Byte) (key : Nat) : meets (readSample m key) (fun _ => True) :=
  meets_bind (meets_written _) fun _ _ => trivial

/-- A list of samples, wherever each of them is kept. -/
theorem meets_readSampleList (m : Cells Byte) (key : β → Nat) (l : List β) :
    meets (readEach (fun b => readSample m (key b)) l) (fun _ => True) :=
  meets_mono (meets_readEach (fun b => meets_readSample m (key b)) l) fun _ _ => trivial

theorem meets_readIf {c : Cmd α} (avail : Bool) (hc : meets c (fun _ => True)) :
    meets (readIf avail c) (fun _ => True) :=
  meets_ite (fun _ => meets_bind hc fun _ _ => trivial) fun _ => trivial

theorem meets_intraNeighbours (s : State) : meets (intraNeighbours s) (fun _ => True) :=
  meets_bind (meets_readIf _ (meets_readSampleList _ _ _)) fun _ _ =>
    meets_bind (meets_readIf _ (meets_readSampleList _ _ _)) fun _ _ =>
      meets_bind (meets_readIf _ (meets_readSample _ _)) fun _ _ => trivial

/-! The grids. -/

theorem meets_readNc (s : State) (p : Plane) (gx gy : Nat) : meets (readNc s p gx gy) (fun _ => True) := by
  unfold readNc
  split
  · exact meets_ite (fun _ => trivial) fun _ => meets_raise (by decide) _
  · exact meets_raise (by decide) _

theorem meets_neighbourA (s : State) (p : Plane) (gx gy : Nat) : meets (neighbourA s p gx gy) (fun _ => True) :=
  meets_ite (fun _ => trivial) fun _ => meets_bind (meets_readNc s p _ _) fun _ _ => trivial

theorem meets_neighbourB (s : State) (p : Plane) (gx gy : Nat) : meets (neighbourB s p gx gy) (fun _ => True) :=
  meets_ite (fun _ => trivial) fun _ => meets_bind (meets_readNc s p _ _) fun _ _ => trivial

theorem meets_gridNc (s : State) (p : Plane) (bx byy : Nat) : meets (gridNc s p bx byy) (fun _ => True) :=
  meets_bind (meets_neighbourA s p _ _) fun _ _ => meets_bind (meets_neighbourB s p _ _) fun _ _ => trivial

theorem meets_ncFor (s : State) (plane : Option Plane) (ncsel : Bool) (bx byy : Two) :
    meets (ncFor s plane ncsel bx byy) (fun _ => True) := by
  cases plane with
  | none => trivial
  | some p => exact meets_ite (fun _ => trivial) fun _ => meets_bind (meets_gridNc s p _ _) fun _ _ => trivial

theorem meets_cavlcContext (mnc : Mnc) (plane : Option Plane) (ncsel : Bool) (bx byy : Two) (wb : Bool) (s : State) :
    meets (cavlcContext mnc plane ncsel bx byy wb s) (fun _ => True) :=
  meets_bind (meets_legal _ s) fun _ _ =>
    meets_ite (fun _ => meets_bind (meets_checkPicture s) fun _ _ => meets_ncFor s plane ncsel bx byy) fun _ =>
      meets_ncFor s plane ncsel bx byy

theorem meets_readMv (s : State) (mx my : Nat) : meets (readMv s mx my) (fun _ => True) := by
  unfold readMv
  split
  · exact meets_ite (fun _ => trivial) fun _ => meets_raise (by decide) _
  · exact meets_raise (by decide) _

theorem meets_mvNeighbour (s : State) (avail : Bool) (mx my : Nat) :
    meets (mvNeighbour s avail mx my) (fun _ => True) :=
  meets_ite (fun _ => meets_bind (meets_readMv s mx my) fun _ _ => trivial) fun _ => trivial

theorem meets_predictMv (s : State) : meets (predictMv s) (fun _ => True) :=
  meets_bind (meets_mvNeighbour s _ _ _) fun _ _ => meets_bind (meets_mvNeighbour s _ _ _) fun _ _ =>
    meets_bind (meets_mvNeighbour s _ _ _) fun _ _ => trivial

/-! The readers of the stream: none passes `BITLEN` (40_bitstream.md R220). -/

theorem meets_streamBit (s : State) (k : Nat) : meets (streamBit s k) (fun _ => True) := meets_written _

theorem meets_streamBits (s : State) (pos n : Nat) : meets (streamBits s pos n) (fun _ => True) :=
  meets_bind (meets_readEach (meets_streamBit s) _) fun _ _ => trivial

theorem meets_countZeros (s : State) (start room pos zeros : Nat) :
    meets (countZeros s start room pos zeros) (fun r => r.2 ≤ s.bitlen.toNat) := by
  induction room generalizing pos zeros with
  | zero => exact meets_raise (by decide) _
  | succ room ih =>
    exact meets_bind (meets_needBits s start pos 1) fun _ hpos => meets_bind (meets_streamBit s pos) fun _ _ =>
      meets_ite (fun _ => hpos) fun _ => ih (pos + 1) (zeros + 1)

theorem meets_readUe (s : State) (start : Nat) : meets (readUe s start) (fun r => r.2 ≤ s.bitlen.toNat) :=
  meets_bind (meets_countZeros s start 32 start 0) fun r _ =>
    meets_bind (meets_needBits s start r.2 r.1) fun _ hpos => meets_bind (meets_streamBits s r.2 r.1) fun _ _ => hpos

theorem meets_peekField (s : State) (n : Nat) : meets (peekField s n) (fun _ => here s + n ≤ s.bitlen.toNat) :=
  meets_bind (meets_needBits s _ _ n) fun _ hpos => meets_mono (meets_streamBits s _ n) fun _ _ => hpos

theorem meets_vlcScan (s : State) (t : List (VlcEntry α)) (start room len code : Nat) :
    meets (vlcScan s t start room len code) (fun r => r.2 ≤ s.bitlen.toNat) := by
  induction room generalizing len code with
  | zero => exact meets_raise (by decide) _
  | succ room ih =>
    refine meets_bind (meets_needBits s start start (len + 1)) fun _ hpos =>
      meets_bind (meets_streamBit s _) fun b _ => ?_
    split
    · exact hpos
    · exact ih _ _

theorem meets_vlcRead (s : State) (t : List (VlcEntry α)) (pos : Nat) :
    meets (vlcRead s t pos) (fun r => r.2 ≤ s.bitlen.toNat) :=
  meets_vlcScan s t pos _ 0 0

theorem meets_readLevel (s : State) (suffixLength : Nat) (first : Bool) (pos : Nat) :
    meets (readLevel s suffixLength first pos) (fun r => r.2 ≤ s.bitlen.toNat) :=
  meets_bind (meets_countZeros s pos 16 pos 0) fun r _ =>
    meets_bind (meets_needBits s pos r.2 _) fun _ hpos => meets_bind (meets_streamBits s r.2 _) fun _ _ => hpos

theorem meets_readLevels (s : State) (t1 n i suffixLength : Nat) {pos : Nat} (hpos : pos ≤ s.bitlen.toNat) :
    meets (readLevels s t1 n i suffixLength pos) (fun r => r.2 ≤ s.bitlen.toNat) := by
  induction n generalizing i suffixLength pos with
  | zero => exact hpos
  | succ n ih =>
    refine meets_ite (fun _ => ?trailingOne) fun _ => ?level
    case trailingOne =>
      exact meets_bind (meets_needBits s pos pos 1) fun _ hone => meets_bind (meets_streamBit s pos) fun _ _ =>
        meets_bind (ih (i + 1) suffixLength hone) fun _ hr => hr
    case level =>
      exact meets_bind (meets_readLevel s suffixLength _ pos) fun _ hl => meets_bind (ih (i + 1) _ hl) fun _ hr => hr

theorem meets_readTotalZeros (s : State) (mnc : Mnc) (tc : Nat) {pos : Nat} (hpos : pos ≤ s.bitlen.toNat) :
    meets (readTotalZeros s mnc tc pos) (fun r => r.2 ≤ s.bitlen.toNat) :=
  meets_ite (fun _ => meets_bind (meets_vlcRead s _ pos) fun _ hr =>
    meets_bind (meets_require (by decide) _) fun _ _ => hr) fun _ => hpos

theorem meets_readRuns (s : State) (n zl : Nat) {pos : Nat} (hpos : pos ≤ s.bitlen.toNat) :
    meets (readRuns s n zl pos) (fun r => r.2 ≤ s.bitlen.toNat) := by
  induction n generalizing zl pos with
  | zero => exact hpos
  | succ n ih =>
    match n, ih with
    | 0, _ => exact hpos
    | n + 1, ih =>
      refine meets_ite (fun _ => ?codeword) fun _ => ?noZerosLeft
      case codeword =>
        exact meets_bind (meets_vlcRead s _ pos) fun _ hr => meets_bind (meets_require (by decide) _) fun _ _ =>
          meets_bind (ih _ hr) fun _ hq => hq
      case noZerosLeft => exact meets_bind (ih zl hpos) fun _ hq => hq

/-- A decoded block ends before `BITLEN`, and its TotalCoeff is within maxNumCoeff (42_cavlc.md R292). -/
theorem meets_decodeBlock (s : State) (pos : Nat) (nC : Int) (mnc : Mnc) :
    meets (decodeBlock s pos nC mnc) (fun blk => blk.pos ≤ s.bitlen.toNat ∧ blk.tc ≤ 16) := by
  have hlen : mncLen mnc ≤ 16 := by cases mnc <;> decide
  refine meets_bind (meets_vlcRead s _ pos) fun r hr => meets_bind (meets_require (by decide) _) fun _ htc =>
    meets_ite (fun _ => ⟨hr, Nat.zero_le _⟩) fun _ => ?_
  exact meets_bind (meets_readLevels s _ _ 0 _ hr) fun _ hp => meets_bind (meets_readTotalZeros s mnc _ hp) fun _ hq =>
    meets_bind (meets_readRuns s _ _ hq) fun _ hrun => ⟨hrun, (of_decide_eq_true htc).trans hlen⟩

end Sys2Proof.Machine
end

section
/-! What a command can do, said once (`exec_eq_next`): it completes with one of the results of `Completes`, or ends in
an error. The invariants and the frame of the commands are read off the results. -/

namespace Sys2Proof.Machine

/-- The results of the command `i` that completes in state `s`, by the state they write. -/
inductive Completes (s : State) (i : Instr) : State → Prop
  /-- nothing is written -/
  | unchanged : Completes s i s
  /-- `SETR`, `SETRH` -/
  | register (hi : i.setsRegister = true ∧ i.writesRes = true ∧ i.writesBitpos = true) (n : Nat) (v : Word) :
    Completes s i (writeReg s n v)
  /-- `GRIDCLR` -/
  | gridsCleared (hi : i.writesNcg = true ∧ i.writesMvg = true) :
    Completes s i { s with ncg := invalidateNc s.ncg, mvg := invalidateMv s.mvg }
  /-- `QPDELTA` -/
  | qpSet (hi : i = .qpdelta) (q : BitVec 6) : Completes s i { s with qp := q }
  /-- a value in `RES` -/
  | result (hi : i.writesRes = true) (r : Word) : Completes s i { s with res := r }
  /-- `BITPOS` moves within the stream -/
  | skipped (hi : i.writesBitpos = true) (pos : Nat) (hpos : pos ≤ s.bitlen.toNat) :
    Completes s i { s with bitpos := BitVec.ofNat 32 pos }
  /-- a value read from the stream, in `RES` -/
  | streamRead (hi : i.writesRes = true ∧ i.writesBitpos = true) (r : Word) (pos : Nat) (hpos : pos ≤ s.bitlen.toNat) :
    Completes s i { s with res := r, bitpos := BitVec.ofNat 32 pos }
  /-- a bit string at `BITPOS`, within the buffer -/
  | streamWrite (hi : i.writesStream = true ∧ i.writesBitpos = true) (code : List Bool)
    (hfit : here s ≤ bufferBits s → here s + code.length ≤ bufferBits s) : Completes s i (putBits s code)
  /-- elements of `CB` -/
  | elements (hi : i.writesCb = true) (es : List (Nat × Word)) (hes : ∀ e ∈ es, e.1 < 512) :
    Completes s i { s with cb := cellWriteAll s.cb es }
  | prediction (hi : i.writesPred = true) (p : Samples) : Completes s i (writePred s p)
  /-- `IPSEL` -/
  | selection (hsel : i = .ipsel) (hi : i.writesRes = true ∧ i.writesPred = true) (p : Samples) (r : Word)
    (e : BitVec 17) :
    Completes s i { writePred s p with res := r, sae := e }
  | reconstruction (hi : i.writesRec = true) (es : List (Nat × Byte)) : Completes s i (writeRec s es)
  | vector (hi : i.writesMvg = true) (k : Nat) (c : MvCell) : Completes s i { s with mvg := cellWrite k c s.mvg }
  | contexts (hi : i.writesNcg = true) (ws : List (Nat × NcCell)) (hws : ∀ w ∈ ws, w.2.tc ≤ 16) :
    Completes s i { s with ncg := cellWriteAll s.ncg ws }
  /-- `CAVLCDEC` -/
  | decoded (hi : i.writesCb = true ∧ i.writesBitpos = true ∧ i.writesRes = true ∧ i.writesCvstat = true)
    (es : List (Nat × Word)) (hes : ∀ e ∈ es, e.1 < 512) (pos : Nat) (hpos : pos ≤ s.bitlen.toNat) (r c : Word)
    (ws : List (Nat × NcCell)) (hwb : i.writesNcg = false → ws = []) (hws : ∀ w ∈ ws, w.2.tc ≤ 16) :
    Completes s i { s with cb := cellWriteAll s.cb es, bitpos := BitVec.ofNat 32 pos, res := r, cvstat := c,
                           ncg := cellWriteAll s.ncg ws }
  /-- `CAVLCENC` -/
  | encoded (hi : i.writesStream = true ∧ i.writesBitpos = true ∧ i.writesRes = true ∧ i.writesCvstat = true)
    (code : List Bool) (hfit : here s + code.length ≤ bufferBits s) (r c : Word)
    (ws : List (Nat × NcCell)) (hwb : i.writesNcg = false → ws = []) (hws : ∀ w ∈ ws, w.2.tc ≤ 16) :
    Completes s i { putBits s code with res := r, cvstat := c, ncg := cellWriteAll s.ncg ws }

/-! The results of the operations that several commands share. -/

theorem slotEntries_lt {slot : Slot} {b : Block} : ∀ e ∈ slotEntries slot b, e.1 < 512 := by
  intro e he
  obtain ⟨k, hk, rfl⟩ := List.mem_map.mp he
  have := List.mem_range.mp hk
  simp only [cbKey]
  omega

theorem completes_writeSlot {s : State} {i : Instr} (hi : i.writesCb = true) (slot : Slot) (b : Block) :
    Completes s i (writeSlot s slot b) := by
  unfold writeSlot
  exact .elements hi _ slotEntries_lt

theorem meets_storeBlock {s : State} {i : Instr} (hi : i.writesCb = true) (slot : Slot) (b : Block) :
    meets (storeBlock s slot b) (Completes s i) :=
  meets_bind (meets_require (by decide) _) fun _ _ => meets_pure (completes_writeSlot hi slot b)

theorem meets_writeBits {s : State} {i : Instr} (hi : i.writesStream = true ∧ i.writesBitpos = true)
    (code : List Bool) :
    meets (writeBits s code) (Completes s i) :=
  meets_bind (meets_require (by decide) _) fun _ hfit =>
    meets_pure (.streamWrite hi code fun _ => of_decide_eq_true hfit)

/-- The zeros to the next byte boundary fit a buffer of whole bytes (40_bitstream.md R230). -/
theorem here_add_toBoundary_le {s : State} (h : here s ≤ bufferBits s) :
    here s + toBoundary (here s) ≤ bufferBits s := by
  simp only [bufferBits, toBoundary] at *
  omega

theorem cellWriteAll_append {α : Type} (m : Cells α) (es fs : List (Nat × α)) :
    cellWriteAll m (es ++ fs) = cellWriteAll (cellWriteAll m fs) es := List.foldr_append

/-- `u` is `s` but for cells of the nC grid, each written with the TotalCoeff `tc`. -/
def storesContexts (s : State) (tc : Nat) (u : State) : Prop :=
  ∃ ws : List (Nat × NcCell), (∀ w ∈ ws, w.2.tc = tc) ∧ u = { s with ncg := cellWriteAll s.ncg ws }

theorem storesContexts_refl (s : State) (tc : Nat) : storesContexts s tc s := ⟨[], by simp, rfl⟩

theorem storesContexts_trans {s u v : State} {tc : Nat} (hu : storesContexts s tc u) (hv : storesContexts u tc v) :
    storesContexts s tc v := by
  obtain ⟨ws, hws, rfl⟩ := hu
  obtain ⟨xs, hxs, rfl⟩ := hv
  refine ⟨xs ++ ws, fun w hw => ?_, by simp only [cellWriteAll_append]⟩
  exact (List.mem_append.mp hw).elim (hxs w) (hws w)

theorem storesContexts_putNc (s : State) (p : Plane) (tc bx byy : Nat) : storesContexts s tc (putNc s p tc bx byy) := by
  unfold putNc
  exact ⟨[(_, { valid := true, tc := tc })], by simp, rfl⟩

theorem storesContexts_putNcAll (s : State) (p : Plane) (tc : Nat) : storesContexts s tc (putNcAll s p tc) := by
  unfold putNcAll
  generalize List.range (planeBlocks p * planeBlocks p) = ks
  induction ks generalizing s with
  | nil => exact storesContexts_refl s tc
  | cons k ks ih => exact storesContexts_trans (storesContexts_putNc s p tc _ _) (ih _)

theorem completes_of_storesContexts {s u : State} {i : Instr} {tc : Nat} (hi : i.writesNcg = true) (htc : tc ≤ 16)
    (h : storesContexts s tc u) : Completes s i u := by
  obtain ⟨ws, hws, rfl⟩ := h
  exact .contexts hi ws fun w hw => (hws w hw).trans_le htc

/-- The write-back writes at most one cell, and none without `wb` (42_cavlc.md R309). -/
theorem cavlcResults_eq (s : State) (plane : Option Plane) (wb : Bool) (bx byy : Two) (n tc t1 : Nat) :
    ∃ ws : List (Nat × NcCell), (wb = false → ws = []) ∧ (∀ w ∈ ws, w.2.tc = tc) ∧
      cavlcResults s plane wb bx byy n tc t1
        = { s with res := BitVec.ofNat 32 tc, cvstat := cvstatOf n t1 tc, ncg := cellWriteAll s.ncg ws } := by
  match plane, wb with
  | none, _ => exact ⟨[], fun _ => rfl, by simp, rfl⟩
  | some p, false => exact ⟨[], fun _ => rfl, by simp, rfl⟩
  | some p, true => exact ⟨[(_, { valid := true, tc := tc })], by simp, by simp, rfl⟩

/-! The CAVLC commands. -/

theorem length_nonZeros_le (k : Nat) (cs : List Int) : (nonZeros k cs).length ≤ cs.length := by
  induction cs generalizing k with
  | nil => exact Nat.le_refl 0
  | cons c cs ih =>
    have := ih (k + 1)
    simp only [nonZeros, List.length_append, List.length_cons]
    split_ifs <;> simp <;> omega

/-- The TotalCoeff of an encoded block counts coefficients of the block (42_cavlc.md R311). -/
theorem encodeBlock_tc_le {coeff : List Int} {nC : Int} {mnc : Mnc} {code : List Bool} {tc t1 : Nat}
    (h : encodeBlock coeff nC mnc = some (code, tc, t1)) : tc ≤ coeff.length := by
  have htc : (nonZeros 0 coeff).length = tc := by
    simp only [encodeBlock, Option.bind_eq_bind, Option.bind_eq_some_iff, Option.pure_def, Option.some.injEq,
      Prod.mk.injEq] at h
    obtain ⟨_, -, _, -, _, -, -, htc, -⟩ := h
    exact htc
  exact htc ▸ length_nonZeros_le 0 coeff

theorem length_scanPos_le (mnc : Mnc) : (scanPos mnc).length ≤ 16 := by cases mnc <;> decide

theorem completes_cavlcResults_decoded {s : State} {slot : Slot} {mnc : Mnc} {plane : Option Plane} {ncsel : Bool}
    {bx byy : Two} {wb : Bool} (b : Block) {pos tc : Nat} (hpos : pos ≤ s.bitlen.toNat) (htc : tc ≤ 16) (n t1 : Nat) :
    Completes s (.cavlcdec slot mnc plane ncsel bx byy wb)
      (cavlcResults { writeSlot s slot b with bitpos := BitVec.ofNat 32 pos } plane wb bx byy n tc t1) := by
  obtain ⟨ws, hwb, hws, hu⟩ :=
    cavlcResults_eq { writeSlot s slot b with bitpos := BitVec.ofNat 32 pos } plane wb bx byy n tc t1
  rw [hu]
  simpa only [writeSlot] using Completes.decoded (i := .cavlcdec slot mnc plane ncsel bx byy wb) ⟨rfl, rfl, rfl, rfl⟩ _
    slotEntries_lt pos hpos _ _ ws hwb fun w hw => (hws w hw).trans_le htc

theorem completes_cavlcResults_encoded {s : State} {slot : Slot} {mnc : Mnc} {plane : Option Plane} {ncsel : Bool}
    {bx byy : Two} {wb : Bool} {code : List Bool} {tc : Nat} (hfit : here s + code.length ≤ bufferBits s)
    (htc : tc ≤ 16) (n t1 : Nat) :
    Completes s (.cavlcenc slot mnc plane ncsel bx byy wb)
      (cavlcResults (putBits s code) plane wb bx byy n tc t1) := by
  obtain ⟨ws, hwb, hws, hu⟩ := cavlcResults_eq (putBits s code) plane wb bx byy n tc t1
  rw [hu]
  exact .encoded ⟨rfl, rfl, rfl, rfl⟩ code hfit _ _ ws hwb fun w hw => (hws w hw).trans_le htc

/-! Every command. -/

/-- Every command is a computation that answers one of its results, or raises an error. -/
theorem exec_eq_runCommand (i : Instr) (s : State) :
    ∃ c, exec i s = runCommand s c ∧ meets c (Completes s i) := by
  cases i with
  | nop => exact ⟨_, rfl, meets_pure .unchanged⟩
  | setr rsel imm16 =>
    exact ⟨_, rfl, meets_bind (meets_legal _ s) fun _ _ => meets_pure (.register ⟨rfl, rfl, rfl⟩ _ _)⟩
  | setrh rsel imm16 =>
    exact ⟨_, rfl, meets_bind (meets_legal _ s) fun _ _ => meets_pure (.register ⟨rfl, rfl, rfl⟩ _ _)⟩
  | gridclr => exact ⟨_, rfl, meets_pure (.gridsCleared ⟨rfl, rfl⟩)⟩
  | qpdelta =>
    exact ⟨_, rfl, meets_bind (meets_require (by decide) _) fun _ _ => meets_pure (.qpSet rfl _)⟩
  | bsrd n =>
    exact ⟨_, rfl, meets_bind (meets_legal _ s) fun _ _ => meets_bind (meets_peekField s _) fun _ hpos =>
      meets_pure (.streamRead ⟨rfl, rfl⟩ _ _ hpos)⟩
  | bspeek n =>
    exact ⟨_, rfl, meets_bind (meets_legal _ s) fun _ _ => meets_bind (meets_peekField s _) fun _ _ =>
      meets_pure (.result rfl _)⟩
  | bsrdue =>
    exact ⟨_, rfl, meets_bind (meets_readUe s _) fun _ hpos => meets_pure (.streamRead ⟨rfl, rfl⟩ _ _ hpos)⟩
  | bsrdse =>
    exact ⟨_, rfl, meets_bind (meets_readUe s _) fun _ hpos => meets_pure (.streamRead ⟨rfl, rfl⟩ _ _ hpos)⟩
  | bswr n => exact ⟨_, rfl, meets_bind (meets_legal _ s) fun _ _ => meets_writeBits ⟨rfl, rfl⟩ _⟩
  | bswrue => exact ⟨_, rfl, meets_bind (meets_require (by decide) _) fun _ _ => meets_writeBits ⟨rfl, rfl⟩ _⟩
  | bswrse => exact ⟨_, rfl, meets_bind (meets_require (by decide) _) fun _ _ => meets_writeBits ⟨rfl, rfl⟩ _⟩
  | bsalign fill =>
    refine ⟨_, rfl, meets_ite (fun hfill : (Instr.bsalign fill).writesStream = true =>
      meets_pure (.streamWrite ⟨hfill, rfl⟩ _ fun h => ?_)) fun _ =>
        meets_bind (meets_needBits s _ _ _) fun _ hpos => meets_pure (.skipped rfl _ hpos)⟩
    rw [List.length_replicate]
    exact here_add_toBoundary_le h
  | bstrail => exact ⟨_, rfl, meets_writeBits ⟨rfl, rfl⟩ _⟩
  | bsmore => exact ⟨_, rfl, meets_pure (.result rfl _)⟩
  | bsrdme intra =>
    exact ⟨_, rfl, meets_bind (meets_readUe s _) fun _ hpos => meets_bind (meets_require (by decide) _) fun _ _ =>
      meets_pure (.streamRead ⟨rfl, rfl⟩ _ _ hpos)⟩
  | bswrme intra => exact ⟨_, rfl, meets_bind (meets_require (by decide) _) fun _ _ => meets_writeBits ⟨rfl, rfl⟩ _⟩
  | cavlcdec slot mnc plane ncsel bx byy wb =>
    exact ⟨_, rfl, meets_bind (meets_cavlcContext mnc plane ncsel bx byy wb s) fun _ _ =>
      meets_bind (meets_decodeBlock s _ _ mnc) fun _ hblk =>
        meets_pure (completes_cavlcResults_decoded _ hblk.1 hblk.2 _ _)⟩
  | cavlcenc slot mnc plane ncsel bx byy wb =>
    refine ⟨_, rfl, meets_bind (meets_cavlcContext mnc plane ncsel bx byy wb s) fun _ _ =>
      meets_bind (meets_readEach (meets_readElem s slot) (scanPos mnc)) fun coeff hlen => ?_⟩
    split
    · exact meets_raise (by decide) _
    next code tc t1 henc =>
      have htc : tc ≤ 16 := (encodeBlock_tc_le henc).trans (hlen ▸ length_scanPos_le mnc)
      refine meets_bind (P := fun t => here s + code.length ≤ bufferBits s ∧ t = putBits s code) ?_ ?_
      · exact meets_bind (meets_require (by decide) _) fun _ hfit => ⟨of_decide_eq_true hfit, rfl⟩
      · rintro t ⟨hfit, rfl⟩
        exact completes_cavlcResults_encoded hfit htc _ _
  | ncset plane bx byy all =>
    refine ⟨_, rfl, meets_bind (meets_legal _ s) fun _ _ => meets_bind (meets_checkPicture s) fun _ _ =>
      meets_bind (meets_require (by decide) _) fun _ hnc => ?_⟩
    have htc := of_decide_eq_true hnc
    cases plane with
    | none =>
      exact completes_of_storesContexts rfl htc (storesContexts_trans (storesContexts_trans
        (storesContexts_putNcAll _ .y _) (storesContexts_putNcAll _ .cb _)) (storesContexts_putNcAll _ .cr _))
    | some p =>
      exact meets_ite (fun _ => completes_of_storesContexts rfl htc (storesContexts_putNcAll s p _)) fun _ =>
        completes_of_storesContexts rfl htc (storesContexts_putNc s p _ _ _)
  | ncget plane bx byy raw =>
    refine ⟨_, rfl, meets_bind (meets_legal _ s) fun _ _ => meets_bind (meets_checkPicture s) fun _ _ => ?_⟩
    cases plane with
    | none => exact meets_raise (by decide) _
    | some p =>
      exact meets_ite (fun _ => meets_bind (meets_readNc s p _ _) fun _ _ => meets_pure (.result rfl _)) fun _ =>
        meets_bind (meets_gridNc s p _ _) fun _ _ => meets_pure (.result rfl _)
  | zzfwd d src flag =>
    exact ⟨_, rfl, meets_bind (meets_readEach (meets_readElem s src) _) fun _ _ =>
      meets_pure (completes_writeSlot rfl d _)⟩
  | zzinv d src flag =>
    exact ⟨_, rfl, meets_bind (meets_readEach (meets_readElem s src) _) fun _ _ =>
      meets_pure (completes_writeSlot rfl d _)⟩
  | fcore d src => exact ⟨_, rfl, meets_bind (meets_readSlot s src) fun _ _ => meets_storeBlock rfl d _⟩
  | fquant d src ac =>
    exact ⟨_, rfl, meets_bind (meets_checkQp s) fun _ _ => meets_bind (meets_readSlot s src) fun _ _ =>
      meets_storeBlock rfl d _⟩
  | fhadq d src =>
    exact ⟨_, rfl, meets_bind (meets_checkQp s) fun _ _ => meets_bind (meets_readSlot s src) fun _ _ =>
      meets_storeBlock rfl d _⟩
  | iquant d src dc =>
    exact ⟨_, rfl, meets_bind (meets_checkQp s) fun _ _ => meets_bind (meets_readSlot s src) fun _ _ =>
      meets_storeBlock rfl d _⟩
  | idct d src => exact ⟨_, rfl, meets_bind (meets_readSlot s src) fun _ _ => meets_storeBlock rfl d _⟩
  | ihadq d src =>
    exact ⟨_, rfl, meets_bind (meets_checkQp s) fun _ _ => meets_bind (meets_readSlot s src) fun _ _ =>
      meets_storeBlock rfl d _⟩
  | pres d src t =>
    exact ⟨_, rfl, meets_bind (meets_checkQp s) fun _ _ => meets_bind (meets_readSlot s src) fun _ _ =>
      meets_bind (meets_readSlot s t) fun _ _ => meets_storeBlock rfl d _⟩
  | emov d src dr dc sr sc =>
    refine ⟨_, rfl, meets_bind (meets_written _) fun v _ =>
      meets_pure (.elements rfl [(cbKey d (4 * dr.toNat + dc.toNat), v)] fun e he => ?_)⟩
    rw [List.mem_singleton.mp he]
    simp only [cbKey]
    omega
  | zero d => exact ⟨_, rfl, meets_pure (completes_writeSlot rfl d _)⟩
  | ipred mode =>
    refine ⟨_, rfl, meets_bind (meets_checkPicture s) fun _ _ => meets_bind (meets_intraNeighbours s) fun _ _ => ?_⟩
    split
    · exact meets_raise (by decide) _
    · exact .prediction rfl _
  | ipsel =>
    refine ⟨_, rfl, meets_bind (meets_checkPicture s) fun _ _ => meets_bind (meets_intraNeighbours s) fun _ _ =>
      meets_bind (meets_readSampleList s.src id _) fun _ _ => ?_⟩
    split
    · exact meets_raise (by decide) _
    · exact .selection rfl ⟨rfl, rfl⟩ _ _ _
  | rsub slot bx byy =>
    exact ⟨_, rfl, meets_bind (meets_readSampleList _ _ _) fun _ _ => meets_bind (meets_readSampleList _ _ _) fun _ _ =>
      meets_pure (completes_writeSlot rfl slot _)⟩
  | recon slot bx byy =>
    exact ⟨_, rfl, meets_bind (meets_checkPicture s) fun _ _ => meets_bind (meets_readSampleList _ _ _) fun _ _ =>
      meets_bind (meets_readSlot s slot) fun _ _ => meets_pure (.reconstruction rfl _)⟩
  | rcopy =>
    exact ⟨_, rfl, meets_bind (meets_checkPicture s) fun _ _ => meets_bind (meets_readSampleList s.pred id _) fun _ _ =>
      meets_pure (.reconstruction rfl _)⟩
  | mvpred =>
    exact ⟨_, rfl, meets_bind (meets_checkPicture s) fun _ _ => meets_bind (meets_predictMv s) fun _ _ =>
      meets_pure (.result rfl _)⟩
  | mvset res => exact ⟨_, rfl, meets_bind (meets_checkPicture s) fun _ _ => meets_pure (.vector rfl _ _)⟩
  | mcopy =>
    exact ⟨_, rfl, meets_bind (meets_checkPicture s) fun _ _ => meets_bind (meets_readMv s _ _) fun _ _ =>
      meets_bind (meets_readSampleList _ _ _) fun _ _ => meets_pure (.prediction rfl _)⟩

/-- What a command that answers a next state has done: it completed with one of its results, or raised an error. -/
theorem exec_eq_next {i : Instr} {s t : State} (h : exec i s = .next t) :
    (∃ u, Completes s i u ∧ t = complete u) ∨ ∃ e info, e ≠ ErrCode.none ∧ t = errorEnd s e info := by
  obtain ⟨c, hexec, hc⟩ := exec_eq_runCommand i s
  rw [hexec, runCommand_eq_next] at h
  obtain ⟨u, rfl, rfl⟩ | ⟨e, info, rfl, rfl⟩ := h
  · exact .inl ⟨u, hc, rfl⟩
  · exact .inr ⟨e, info, hc, rfl⟩

end Sys2Proof.Machine
end

section
/-! What a move of the host and a whole step can do, said once (`hostAct_eq_next`, `step_keeps`), and which move a step
is. -/

namespace Sys2Proof.Machine

/-! Register writes. -/

/-- A register write changes nothing but the nine writable registers (10_state.md R71). -/
theorem writeReg_frame (s : State) (n : Nat) (v : Word) :
    { writeReg s n v with res := s.res, opr := s.opr, qp := s.qp, sliceqp := s.sliceqp, bitpos := s.bitpos,
                          bitlen := s.bitlen, picdim := s.picdim, mbpos := s.mbpos, ncreg := s.ncreg } = s := by
  unfold writeReg
  split <;> rfl

section
variable (s : State) (n : Nat) (v : Word)

@[simp] theorem writeReg_params : (writeReg s n v).params = s.params := by unfold writeReg; split <;> rfl
@[simp] theorem writeReg_busy : (writeReg s n v).busy = s.busy := by unfold writeReg; split <;> rfl
@[simp] theorem writeReg_done : (writeReg s n v).done = s.done := by unfold writeReg; split <;> rfl
@[simp] theorem writeReg_err : (writeReg s n v).err = s.err := by unfold writeReg; split <;> rfl
@[simp] theorem writeReg_drop : (writeReg s n v).drop = s.drop := by unfold writeReg; split <;> rfl
@[simp] theorem writeReg_errcode : (writeReg s n v).errcode = s.errcode := by unfold writeReg; split <;> rfl
@[simp] theorem writeReg_cmdlatch : (writeReg s n v).cmdlatch = s.cmdlatch := by unfold writeReg; split <;> rfl
@[simp] theorem writeReg_cvstat : (writeReg s n v).cvstat = s.cvstat := by unfold writeReg; split <;> rfl
@[simp] theorem writeReg_sae : (writeReg s n v).sae = s.sae := by unfold writeReg; split <;> rfl
@[simp] theorem writeReg_cb : (writeReg s n v).cb = s.cb := by unfold writeReg; split <;> rfl
@[simp] theorem writeReg_pred : (writeReg s n v).pred = s.pred := by unfold writeReg; split <;> rfl
@[simp] theorem writeReg_src : (writeReg s n v).src = s.src := by unfold writeReg; split <;> rfl
@[simp] theorem writeReg_bsb : (writeReg s n v).bsb = s.bsb := by unfold writeReg; split <;> rfl
@[simp] theorem writeReg_ncg : (writeReg s n v).ncg = s.ncg := by unfold writeReg; split <;> rfl
@[simp] theorem writeReg_mvg : (writeReg s n v).mvg = s.mvg := by unfold writeReg; split <;> rfl
@[simp] theorem writeReg_recFrame : (writeReg s n v).recFrame = s.recFrame := by unfold writeReg; split <;> rfl
@[simp] theorem writeReg_refFrame : (writeReg s n v).refFrame = s.refFrame := by unfold writeReg; split <;> rfl
@[simp] theorem writeReg_host : (writeReg s n v).host = s.host := by unfold writeReg; split <;> rfl
@[simp] theorem writeReg_hostData : (writeReg s n v).hostData = s.hostData := by unfold writeReg; split <;> rfl
@[simp] theorem writeReg_draws : (writeReg s n v).draws = s.draws := by unfold writeReg; split <;> rfl

end

theorem toNat_ofNat_le {n b : Nat} (h : n ≤ b) : (BitVec.ofNat 32 n).toNat ≤ b := by
  rw [BitVec.toNat_ofNat]
  exact (Nat.mod_le _ _).trans h

theorem clampToBuffer_le (s : State) (v : Word) : (clampToBuffer s v).toNat ≤ bufferBits s :=
  toNat_ofNat_le (Nat.min_le_right _ _)

/-- A register write keeps the cursor in the buffer: the clamp of `BITPOS` and `BITLEN` (10_state.md R64, R65). -/
theorem cursorInBuffer_writeReg {s : State} (n : Nat) (v : Word) (h : s.cursorInBuffer) :
    (writeReg s n v).cursorInBuffer := by
  unfold writeReg
  split
  case h_5 => exact ⟨clampToBuffer_le s v, h.2⟩
  case h_6 => exact ⟨h.1, clampToBuffer_le s v⟩
  all_goals exact h

/-! The windows of the address map (20_memory.md R123). -/

theorem windowOf_eq_coeff {s : State} {o k : Nat} (h : windowOf s o = .coeff k) : k < 512 := by
  unfold windowOf at h
  split_ifs at h
  have hk := Window.coeff.inj h
  omega

theorem windowOf_eq_predBytes {s : State} {o b : Nat} (ho : 4 ∣ o) (h : windowOf s o = .predBytes b) : b + 4 ≤ 256 := by
  unfold windowOf at h
  split_ifs at h
  have hb := Window.predBytes.inj h
  omega

theorem windowOf_eq_srcBytes {s : State} {o b : Nat} (ho : 4 ∣ o) (h : windowOf s o = .srcBytes b) : b + 4 ≤ 256 := by
  unfold windowOf at h
  split_ifs at h
  have hb := Window.srcBytes.inj h
  omega

theorem wordOffset_dvd (off : Word) : 4 ∣ wordOffset off := ⟨off.toNat / 4, Nat.mul_comm _ _⟩

theorem byteEntries_lt {b : Nat} {v : Word} (hb : b + 4 ≤ 256) : ∀ e ∈ byteEntries b v, e.1 < 256 := by
  intro e he
  obtain ⟨j, hj, rfl⟩ := List.mem_map.mp he
  have := List.mem_range.mp hj
  simp only
  omega

theorem bitEntries_lt {pos : Nat} {code : List Bool} : ∀ e ∈ bitEntries pos code, e.1 < pos + code.length := by
  rintro ⟨k, b⟩ he
  have := List.mem_range'_1.mp (List.of_mem_zip he).1
  exact this.2

/-- A word write changes only the stream bits of the bytes below `BSB_BYTES` (20_memory.md R124). -/
theorem streamEntries_lt {s : State} {b : Nat} {v : Word} : ∀ e ∈ streamEntries s b v, e.1 < bufferBits s := by
  intro e he
  obtain ⟨j, hj, he⟩ := List.mem_flatMap.mp he
  have hbyte : b + j < s.params.bsbBytes := of_decide_eq_true (List.mem_filter.mp hj).2
  have hbit := bitEntries_lt e he
  rw [length_msbBits] at hbit
  simp only [bufferBits]
  omega

/-! The host's moves. -/

/-- The results of a move of the host in state `s`. -/
inductive HostResult (s : State) : State → Prop
  | unchanged : HostResult s s
  | reset : HostResult s (softReset s)
  | errorCleared : HostResult s (errorClear s)
  | dropSet (b : Bool) : HostResult s { s with drop := b }
  | accepted (hbusy : s.busy = false) (herr : s.err = false) (w : Word) : HostResult s (acceptCommand s w)
  | register (n : Nat) (v : Word) : HostResult s (writeReg s n v)
  | element (k : Nat) (hk : k < 512) (v : Word) : HostResult s { s with cb := cellWrite k v s.cb }
  | predBytes (es : List (Nat × Byte)) (hes : ∀ e ∈ es, e.1 < 256) :
    HostResult s { s with pred := cellWriteAll s.pred es }
  | srcBytes (es : List (Nat × Byte)) (hes : ∀ e ∈ es, e.1 < 256) : HostResult s { s with src := cellWriteAll s.src es }
  | streamBytes (es : List (Nat × Bool)) (hes : ∀ e ∈ es, e.1 < bufferBits s) :
    HostResult s { s with bsb := cellWriteAll s.bsb es }
  | refSample (k : Nat) (v : Byte) : HostResult s { s with refFrame := cellWrite k v s.refFrame }
  | recSample (k : Nat) (v : Byte) : HostResult s { s with recFrame := cellWrite k v s.recFrame }
  | wordRead (v : Word) (n : Nat) : HostResult s { s with hostData := v, draws := n }

theorem hostResult_busStore (s : State) {o : Nat} (ho : 4 ∣ o) (v : Word) : HostResult s (busStore s o v) := by
  unfold busStore
  split
  next i _ => exact .register i v
  next k hw => exact .element k (windowOf_eq_coeff hw) v
  next b hw => exact .predBytes _ (byteEntries_lt (windowOf_eq_predBytes ho hw))
  next b hw => exact .srcBytes _ (byteEntries_lt (windowOf_eq_srcBytes ho hw))
  next b _ => exact .streamBytes _ streamEntries_lt
  · exact .unchanged

theorem hostResult_writeCtrl (s : State) (v : Word) : HostResult s (writeCtrl s v) := by
  unfold writeCtrl
  split_ifs
  · exact .reset
  · exact .errorCleared
  · exact .unchanged

theorem hostResult_writeStatus (s : State) (v : Word) : HostResult s (writeStatus s v) := by
  unfold writeStatus
  split_ifs
  · exact .dropSet false
  · exact .unchanged

theorem hostResult_writeCmd (s : State) (w : Word) : HostResult s (writeCmd s w) := by
  unfold writeCmd
  split_ifs with hdrop
  · exact .dropSet true
  · simp only [Bool.or_eq_true, not_or, Bool.not_eq_true] at hdrop
    exact .accepted hdrop.1 hdrop.2 w

theorem hostResult_busWrite (s : State) (off v : Word) : HostResult s (busWrite s off v) := by
  unfold busWrite
  split_ifs
  · exact hostResult_writeCtrl s v
  · exact hostResult_writeStatus s v
  · exact hostResult_writeCmd s v
  · exact .dropSet true
  · exact hostResult_busStore s (wordOffset_dvd off) v

/-- What a move of the host that answers a next state has done. -/
theorem hostAct_eq_next {s t : State} {a : HostAction} (h : hostAct s a = .next t) : HostResult s t := by
  cases a with
  | write off v =>
    cases h
    exact hostResult_busWrite s off v
  | read off =>
    simp only [hostAct, busRead] at h
    split_ifs at h
    · cases h
      exact .wordRead _ _
    · split at h
      · cases h
        exact .wordRead _ s.draws
      · cases h
      · cases h
        exact .unchanged
  | supplyRef y x v =>
    cases h
    exact .refSample _ v
  | supplyRec y x v =>
    cases h
    exact .recSample _ v

/-! Whose step it is. -/

theorem step_of_host {s : State} {m : HostMove} {ms : List HostMove} (hhost : s.host = m :: ms)
    (hlands : s.busy = true → landsWhileBusy m = true) : step s = hostAct { s with host := ms } m.action := by
  have hturn : turnOf s = .host m ms := by
    cases hb : s.busy <;> simp_all [turnOf]
  rw [step, hturn, move]

theorem step_of_engine {s : State} (hbusy : s.busy = true)
    (hwaits : s.hostWaits) : step s = engineMove s := by
  have hturn : turnOf s = .engine := by
    cases hh : s.host <;> simp_all [turnOf, State.hostWaits]
  rw [step, hturn, move]

theorem busy_of_turnOf_engine {s : State} (h : turnOf s = .engine) : s.busy = true := by
  unfold turnOf at h
  split at h <;> split_ifs at h with hb
  · exact hb
  · exact (Bool.and_eq_true_iff.mp hb).1

/-- What holds of every result of a command, of every error end, of every result of a host move, and of the state as it
was, holds after every step. -/
theorem step_keeps {Q : State → Prop} {s t : State} (h : step s = .next t)
    (hcommand : s.busy = true → ∀ i u, Completes s i u → Q (complete u))
    (herror : s.busy = true → ∀ e info, e ≠ ErrCode.none → Q (errorEnd s e info))
    (hhost : ∀ ms u, HostResult { s with host := ms } u → Q u) (hidle : Q s) : Q t := by
  unfold step at h
  cases hturn : turnOf s with
  | engine =>
    have hbusy := busy_of_turnOf_engine hturn
    rw [hturn, move, engineMove] at h
    split at h
    · obtain ⟨u, hu, rfl⟩ | ⟨e, info, he, rfl⟩ := exec_eq_next h
      · exact hcommand hbusy _ u hu
      · exact herror hbusy e info he
    · cases h
      exact herror hbusy _ _ (by decide)
  | host m ms =>
    rw [hturn, move] at h
    exact hhost ms t (hostAct_eq_next h)
  | idle =>
    rw [hturn, move] at h
    cases h
    exact hidle

end Sys2Proof.Machine
end

section
/-! The frame of every command and the invariants of every step, each read off the results of the commands
(`Completes`) and of the host's moves (`HostResult`). -/

namespace Sys2Proof.Machine

/-! The frame of every command: each field stays when no result that writes it belongs to the command. -/

section
variable {s u : State} {i : Instr}

/-- The state that no command writes. -/
theorem completes_untouched (h : Completes s i u) :
    u.params = s.params ∧ u.drop = s.drop ∧ u.cmdlatch = s.cmdlatch ∧ u.src = s.src ∧ u.refFrame = s.refFrame ∧
      u.host = s.host ∧ u.hostData = s.hostData ∧ u.draws = s.draws := by
  cases h <;> simp

theorem completes_configuration (h : Completes s i u) (hi : i.setsRegister = false) :
    u.opr = s.opr ∧ u.sliceqp = s.sliceqp ∧ u.picdim = s.picdim ∧ u.mbpos = s.mbpos ∧ u.ncreg = s.ncreg := by
  cases h <;> simp_all

theorem completes_qp (h : Completes s i u) (hi : i.setsRegister = false) (hq : i ≠ .qpdelta) : u.qp = s.qp := by
  cases h <;> simp_all

theorem completes_res (h : Completes s i u) (hi : i.writesRes = false) : u.res = s.res := by
  cases h <;> simp_all

theorem completes_bitpos (h : Completes s i u) (hi : i.writesBitpos = false) : u.bitpos = s.bitpos := by
  cases h <;> simp_all

theorem completes_bitlen (h : Completes s i u) (hi : i.setsRegister = false) (hst : i.writesStream = false) :
    u.bitlen = s.bitlen := by
  cases h <;> simp_all

theorem completes_bsb (h : Completes s i u) (hi : i.writesStream = false) : u.bsb = s.bsb := by
  cases h <;> simp_all

theorem completes_cvstat (h : Completes s i u) (hi : i.writesCvstat = false) : u.cvstat = s.cvstat := by
  cases h <;> simp_all

theorem completes_sae (h : Completes s i u) (hi : i ≠ .ipsel) : u.sae = s.sae := by
  cases h <;> simp_all

theorem completes_cb (h : Completes s i u) (hi : i.writesCb = false) : u.cb = s.cb := by
  cases h <;> simp_all

theorem completes_pred (h : Completes s i u) (hi : i.writesPred = false) : u.pred = s.pred := by
  cases h <;> simp_all

theorem completes_ncg (h : Completes s i u) (hi : i.writesNcg = false) : u.ncg = s.ncg := by
  cases h
  case decoded hwb _ => simp [hwb hi, cellWriteAll]
  case encoded hwb _ => simp [hwb hi, cellWriteAll]
  all_goals simp_all

theorem completes_mvg (h : Completes s i u) (hi : i.writesMvg = false) : u.mvg = s.mvg := by
  cases h <;> simp_all

theorem completes_recFrame (h : Completes s i u) (hi : i.writesRec = false) : u.recFrame = s.recFrame := by
  cases h <;> simp_all

end

/-- Settles O15: a command that completes leaves every field that its results do not name, and an error end writes
none of these fields. -/
theorem commandsWriteOnlyTheirState : Obligations.CommandsWriteOnlyTheirState := by
  intro i s t h
  obtain ⟨u, hu, rfl⟩ | ⟨e, info, -, rfl⟩ := exec_eq_next h
  · obtain ⟨hparams, hdrop, hlatch, hsrc, href, hhost, hdata, hdraws⟩ := completes_untouched hu
    exact ⟨hparams, hdrop, hlatch, hsrc, href, hhost, hdata, hdraws, (completes_configuration hu :),
      (completes_qp hu :), (completes_res hu :), (completes_bitpos hu :), (completes_bitlen hu :),
      (completes_bsb hu :), (completes_cvstat hu :), (completes_sae hu :), (completes_cb hu :),
      (completes_pred hu :), (completes_ncg hu :), (completes_mvg hu :), (completes_recFrame hu :)⟩
  · simp

/-! The canonical form. -/

theorem wf_of_completes {s u : State} {i : Instr} (h : Memory.wf s) (hu : Completes s i u) : Memory.wf u := by
  have ⟨hcb, _, _, _, hncg, hmvg, _, _⟩ := h
  cases hu with
  | unchanged => exact h
  | register hi n v => exact wf_writeReg n v h
  | gridsCleared => exact wf_gridClear h
  | elements _ es => exact wf_setCb (cellsRising_cellWriteAll es hcb) h
  | streamWrite _ code => exact wf_putBits code h
  | prediction _ p => exact wf_writePred p h
  | selection _ _ p => simpa only [Memory.wf] using wf_writePred p h
  | reconstruction _ es => exact wf_writeRec es h
  | vector _ k c => exact wf_setMvg (cellsRising_cellWrite k c hmvg) h
  | contexts _ ws => exact wf_setNcg (cellsRising_cellWriteAll ws hncg) h
  | decoded _ es _ _ _ _ _ ws =>
    exact wf_setNcg (cellsRising_cellWriteAll ws hncg) (wf_setCb (cellsRising_cellWriteAll es hcb) h)
  | encoded _ code _ _ _ ws => exact wf_setNcg (cellsRising_cellWriteAll ws hncg) (wf_putBits code h)
  | qpSet => exact h
  | result => exact h
  | skipped => exact h
  | streamRead => exact h

theorem wf_of_hostResult {s u : State} (h : Memory.wf s) (hu : HostResult s u) : Memory.wf u := by
  have ⟨hcb, hpred, hsrc, hbsb, hncg, hmvg, hrec, href⟩ := h
  cases hu with
  | reset => exact wf_softReset h
  | register n v => exact wf_writeReg n v h
  | element k _ v => exact wf_setCb (cellsRising_cellWrite k v hcb) h
  | predBytes es => exact wf_setPred (cellsRising_cellWriteAll es hpred) h
  | srcBytes es => exact ⟨hcb, hpred, cellsRising_cellWriteAll es hsrc, hbsb, hncg, hmvg, hrec, href⟩
  | streamBytes es => exact wf_setBsb (cellsRising_cellWriteAll es hbsb) h
  | recSample k v => exact wf_setRec (cellsRising_cellWrite k v hrec) h
  | refSample k v => exact ⟨hcb, hpred, hsrc, hbsb, hncg, hmvg, hrec, cellsRising_cellWrite k v href⟩
  | unchanged => exact h
  | errorCleared => exact h
  | dropSet => exact h
  | accepted => exact h
  | wordRead => exact h

/-- Settles O17: every write of a command and of the host keeps the keys of its memory rising. -/
theorem stepKeepsMemoryForm : Obligations.StepKeepsMemoryForm := by
  intro s t hs h
  exact step_keeps h (fun _ _ _ hu => wf_complete (wf_of_completes hs hu)) (fun _ e info _ => wf_errorEnd e info hs)
    (fun ms _ hu => wf_of_hostResult (s := { s with host := ms }) hs hu) hs

/-! The cursor. -/

theorem cursorInBuffer_putBits {s : State} {code : List Bool} (hfit : here s + code.length ≤ bufferBits s)
    (h : s.cursorInBuffer) : (putBits s code).cursorInBuffer := by
  have ⟨_, hlen⟩ := h
  simp only [State.cursorInBuffer, bufferBits, putBits_bitpos, putBits_bitlen, putBits_params] at *
  exact ⟨toNat_ofNat_le hfit, toNat_ofNat_le (Nat.max_le.mpr ⟨hlen, hfit⟩)⟩

theorem cursorInBuffer_of_completes {s u : State} {i : Instr} (h : s.cursorInBuffer) (hu : Completes s i u) :
    u.cursorInBuffer := by
  have ⟨hpos, hlen⟩ := h
  cases hu with
  | register _ n v => exact cursorInBuffer_writeReg n v h
  | skipped _ pos hp => exact ⟨toNat_ofNat_le (hp.trans hlen), hlen⟩
  | streamRead _ r pos hp => exact ⟨toNat_ofNat_le (hp.trans hlen), hlen⟩
  | decoded _ es _ pos hp => exact ⟨toNat_ofNat_le (hp.trans hlen), hlen⟩
  | streamWrite _ code hfit => exact cursorInBuffer_putBits (hfit hpos) h
  | encoded _ code hfit => simpa only [State.cursorInBuffer, bufferBits] using cursorInBuffer_putBits hfit h
  | _ => simpa [State.cursorInBuffer, bufferBits] using h

theorem hostResult_params {s u : State} (hu : HostResult s u) : u.params = s.params := by
  cases hu <;> simp [softReset]

theorem cursorInBuffer_of_hostResult {s u : State} (h : s.cursorInBuffer) (hu : HostResult s u) :
    u.cursorInBuffer := by
  cases hu with
  | register n v => exact cursorInBuffer_writeReg n v h
  | reset => exact ⟨Nat.zero_le _, Nat.zero_le _⟩
  | _ => simpa [State.cursorInBuffer, bufferBits] using h

/-- Settles O18: the reads of the stream stop at `BITLEN`, the writes at the end of the buffer, and a register write is
clamped. -/
theorem stepKeepsCursorInBuffer : Obligations.StepKeepsCursorInBuffer := by
  intro s t _ hs h
  exact step_keeps (Q := fun t => t.params = s.params ∧ t.cursorInBuffer) h
    (fun _ _ _ hu => ⟨(completes_untouched hu).1, (cursorInBuffer_of_completes hs hu :)⟩)
    (fun _ _ _ _ => ⟨rfl, hs⟩)
    (fun ms _ hu => ⟨(hostResult_params hu :),
      cursorInBuffer_of_hostResult (s := { s with host := ms }) hs hu⟩) ⟨rfl, hs⟩

/-! The flags of `STATUS`. -/

theorem completes_error {s u : State} {i : Instr} (hu : Completes s i u) : u.err = s.err ∧ u.errcode = s.errcode := by
  cases hu <;> simp

theorem flagsAgree_complete {s u : State} {i : Instr} (h : s.flagsAgree) (hbusy : s.busy = true)
    (hu : Completes s i u) : (complete u).flagsAgree := by
  obtain ⟨hrunning, -, hcode⟩ := h
  obtain ⟨herr, herrcode⟩ := completes_error hu
  have hok : u.err = false := herr.trans (hrunning hbusy).2
  have hnone : u.errcode = .none := herrcode.trans (hcode.mpr (hrunning hbusy).2)
  simp [State.flagsAgree, hok, hnone]

theorem flagsAgree_errorEnd (s : State) {e : ErrCode} (he : e ≠ .none) (info : Nat) :
    (errorEnd s e info).flagsAgree := by
  simp [State.flagsAgree, he]

theorem flagsAgree_of_hostResult {s u : State} (h : s.flagsAgree) (hu : HostResult s u) : u.flagsAgree := by
  obtain ⟨hrunning, hfailed, hcode⟩ := h
  cases hu with
  | reset => simp [State.flagsAgree, softReset]
  | errorCleared => simpa [State.flagsAgree] using fun hb => (hrunning hb).1
  | accepted hbusy herr w => simp [State.flagsAgree, herr, hcode]
  | _ => simpa [State.flagsAgree] using ⟨hrunning, hfailed, hcode⟩

/-- Settles O19: the engine runs only while no error is pending, and every error it raises has a code other than 0. -/
theorem stepKeepsFlagsInAgreement : Obligations.StepKeepsFlagsInAgreement := by
  intro s t hs h
  exact step_keeps h (fun hbusy _ _ hu => flagsAgree_complete hs hbusy hu)
    (fun _ _ info he => flagsAgree_errorEnd s he info)
    (fun ms _ hu => flagsAgree_of_hostResult (s := { s with host := ms }) hs hu) hs

/-! Entries and contexts. -/

theorem samples_lt {p : Samples} : ∀ e ∈ (List.range 256).map (fun k => (k, toByte (p.getD k 0))), e.1 < 256 := by
  intro e he
  obtain ⟨k, hk, rfl⟩ := List.mem_map.mp he
  exact List.mem_range.mp hk

theorem entriesInRange_setCb {s : State} {m : Cells Word} (hm : ∀ e ∈ m, e.1 < 512) (h : s.entriesInRange) :
    State.entriesInRange { s with cb := m } :=
  ⟨hm, h.2⟩

theorem entriesInRange_writePred {s : State} (p : Samples) (h : s.entriesInRange) :
    (writePred s p).entriesInRange := by
  have ⟨hcb, hpred, hsrc, hbsb⟩ := h
  simp only [State.entriesInRange, bufferBits, writePred_cb, writePred_pred, writePred_src, writePred_bsb,
    writePred_params]
  exact ⟨hcb, forall_mem_cellWriteAll hpred samples_lt, hsrc, hbsb⟩

theorem entriesInRange_putBits {s : State} {code : List Bool} (hfit : here s + code.length ≤ bufferBits s)
    (h : s.entriesInRange) : (putBits s code).entriesInRange := by
  have ⟨hcb, hpred, hsrc, hbsb⟩ := h
  simp only [State.entriesInRange, bufferBits, putBits_cb, putBits_pred, putBits_src, putBits_bsb, putBits_params]
  exact ⟨hcb, hpred, hsrc, forall_mem_cellWriteAll hbsb fun e he => (bitEntries_lt e he).trans_le hfit⟩

theorem entriesInRange_of_completes {s u : State} {i : Instr} (hcursor : s.cursorInBuffer) (h : s.entriesInRange)
    (hu : Completes s i u) : u.entriesInRange := by
  have ⟨hcb, _, _, _⟩ := h
  cases hu with
  | elements _ es hes => exact entriesInRange_setCb (forall_mem_cellWriteAll hcb hes) h
  | decoded _ es hes => exact entriesInRange_setCb (forall_mem_cellWriteAll hcb hes) h
  | prediction _ p => exact entriesInRange_writePred p h
  | selection _ _ p => simpa only [State.entriesInRange, bufferBits] using entriesInRange_writePred p h
  | streamWrite _ code hfit => exact entriesInRange_putBits (hfit hcursor.1) h
  | encoded _ code hfit => simpa only [State.entriesInRange, bufferBits] using entriesInRange_putBits hfit h
  | _ => simpa [State.entriesInRange, bufferBits] using h

theorem entriesInRange_of_hostResult {s u : State} (h : s.entriesInRange) (hu : HostResult s u) :
    u.entriesInRange := by
  have ⟨hcb, hpred, hsrc, hbsb⟩ := h
  cases hu with
  | element k hk v => exact entriesInRange_setCb (forall_mem_cellWrite hcb hk) h
  | predBytes es hes => exact ⟨hcb, forall_mem_cellWriteAll hpred hes, hsrc, hbsb⟩
  | srcBytes es hes => exact ⟨hcb, hpred, forall_mem_cellWriteAll hsrc hes, hbsb⟩
  | streamBytes es hes => exact ⟨hcb, hpred, hsrc, forall_mem_cellWriteAll hbsb hes⟩
  | reset => simpa [State.entriesInRange, bufferBits, softReset] using h
  | _ => simpa [State.entriesInRange, bufferBits] using h

theorem tc_le_invalidateNc {m : Cells NcCell} (h : ∀ e ∈ m, e.2.tc ≤ 16) : ∀ e ∈ invalidateNc m, e.2.tc ≤ 16 := by
  intro e he
  obtain ⟨c, hc, rfl⟩ := List.mem_map.mp he
  exact h c hc

theorem contextInRange_of_completes {s u : State} {i : Instr} (h : s.contextInRange) (hu : Completes s i u) :
    u.contextInRange := by
  cases hu with
  | gridsCleared => exact tc_le_invalidateNc h
  | contexts _ ws hws => exact forall_mem_cellWriteAll h hws
  | decoded _ _ _ _ _ _ _ ws _ hws => exact forall_mem_cellWriteAll h hws
  | encoded _ _ _ _ _ ws _ hws => exact forall_mem_cellWriteAll h hws
  | _ => simpa [State.contextInRange] using h

theorem contextInRange_of_hostResult {s u : State} (h : s.contextInRange) (hu : HostResult s u) :
    u.contextInRange := by
  cases hu with
  | reset => exact tc_le_invalidateNc h
  | _ => simpa [State.contextInRange] using h

/-- Settles O20: each write lists entries inside its memory, and each TotalCoeff written is a decoded one, an encoded
one, or `NCREG` checked to be at most 16. -/
theorem stepKeepsEntriesInRange : Obligations.StepKeepsEntriesInRange := by
  intro s t _ hcursor hentries hcontext h
  exact step_keeps (Q := fun t => t.entriesInRange ∧ t.contextInRange) h
    (fun _ _ _ hu => ⟨(entriesInRange_of_completes hcursor hentries hu :), (contextInRange_of_completes hcontext hu :)⟩)
    (fun _ _ _ _ => ⟨hentries, hcontext⟩)
    (fun ms _ hu => ⟨entriesInRange_of_hostResult (s := { s with host := ms }) hentries hu,
      contextInRange_of_hostResult (s := { s with host := ms }) hcontext hu⟩) ⟨hentries, hcontext⟩

/-! Written-ness. -/

theorem staysWritten_refl {α : Type} (m : Cells α) : staysWritten m m := fun _ h => h

theorem staysWritten_cellWrite {α : Type} (k : Nat) (v : α) (m : Cells α) : staysWritten m (cellWrite k v m) :=
  fun _ => cellRead_cellWrite_isSome

theorem staysWritten_cellWriteAll {α : Type} (m : Cells α) (es : List (Nat × α)) :
    staysWritten m (cellWriteAll m es) :=
  fun _ => cellRead_cellWriteAll_isSome es

/-- What is written in the six memories of `s` is written in `t` (10_state.md R83). -/
def keepsWritten (s t : State) : Prop :=
  staysWritten s.cb t.cb ∧ staysWritten s.pred t.pred ∧ staysWritten s.src t.src ∧ staysWritten s.bsb t.bsb ∧
    staysWritten s.recFrame t.recFrame ∧ staysWritten s.refFrame t.refFrame

theorem keepsWritten_of_completes {s u : State} {i : Instr} (hu : Completes s i u) : keepsWritten s u := by
  cases hu <;> simp [keepsWritten, staysWritten_refl, staysWritten_cellWriteAll, -List.getD_eq_getElem?_getD]

theorem keepsWritten_of_hostResult {s u : State} (hu : HostResult s u) : keepsWritten s u := by
  cases hu <;> simp [keepsWritten, softReset, staysWritten_refl, staysWritten_cellWriteAll, staysWritten_cellWrite]

/-- Settles O21: a memory changes only by writes of entries, and a soft reset keeps the six memories. -/
theorem stepKeepsWrittenness : Obligations.StepKeepsWrittenness := by
  intro s t h
  exact step_keeps (Q := keepsWritten s) h (fun _ _ _ hu => (keepsWritten_of_completes hu :))
    (fun _ _ _ _ => by simp [keepsWritten, staysWritten_refl])
    (fun ms _ hu => keepsWritten_of_hostResult (s := { s with host := ms }) hu)
    (by simp [keepsWritten, staysWritten_refl])

end Sys2Proof.Machine
end

section
/-! The host's writes to the registers, the state after power-on, and the errors and faults of two families of
commands. -/

namespace Sys2Proof.Machine

/-! A host write as a step (10_state.md R71, 20_memory.md R121). -/

theorem step_of_write {s : State} {m : HostMove} {ms : List HostMove} {off v : Word} (hhost : s.host = m :: ms)
    (hact : m.action = .write off v) (hbusy : s.busy = true → m.whileBusy = true) :
    step s = .next (busWrite { s with host := ms } off v) := by
  rw [step_of_host hhost fun hb => by simp [landsWhileBusy, hact, isBusAccess, hbusy hb], hact, hostAct]

theorem busWrite_ctrl (s : State) {off : Word} (v : Word) (h : off.toNat / 4 = 1) :
    busWrite s off v = writeCtrl s v := by
  simp [busWrite, wordOffset, h]

theorem busWrite_status (s : State) {off : Word} (v : Word) (h : off.toNat / 4 = 2) :
    busWrite s off v = writeStatus s v := by
  simp [busWrite, wordOffset, h]

theorem busWrite_cmd (s : State) {off : Word} (v : Word) (h : off.toNat / 4 = 3) :
    busWrite s off v = writeCmd s v := by
  simp [busWrite, wordOffset, h]

theorem busWrite_register {s : State} {off : Word} (v : Word) (hbusy : s.busy = false) (h64 : off.toNat / 4 < 64)
    (h1 : off.toNat / 4 ≠ 1) (h2 : off.toNat / 4 ≠ 2) (h3 : off.toNat / 4 ≠ 3) :
    busWrite s off v = writeReg s (off.toNat / 4) v := by
  have hwindow : windowOf s (wordOffset off) = .register (off.toNat / 4) := by
    rw [windowOf, if_pos (by rw [wordOffset]; omega), wordOffset, Nat.mul_div_cancel _ (by decide)]
  rw [busWrite, if_neg, if_neg, if_neg, hbusy, if_neg (by decide), busStore, hwindow] <;> rw [wordOffset] <;> omega

/-! Writes to `CMD`. -/

theorem writeCmd_of_notReady {s : State} (w : Word) (h : s.busy = true ∨ s.err = true) :
    writeCmd s w = markDropped s := by
  rw [writeCmd, if_pos (Bool.or_eq_true_iff.mpr h)]

theorem writeCmd_of_ready {s : State} (w : Word) (hbusy : s.busy = false) (herr : s.err = false) :
    writeCmd s w = acceptCommand s w := by
  rw [writeCmd, hbusy, herr, if_neg (by decide)]

theorem engineMove_of_command {s : State} {i : Instr} (h : decode s.cmdlatch = .ok i) : engineMove s = exec i s := by
  rw [engineMove, h]

theorem engineMove_of_illegal {s : State} {e : DecodeError} (h : decode s.cmdlatch = .error e) :
    engineMove s = .next (errorEnd s .illegalCommand (here s)) := by
  rw [engineMove, h]

/-- Settles O6: the step is the write to `CMD`, and the step after an acceptance is the engine's. -/
theorem cmdWriteIsAcceptedOrDropped : Obligations.CmdWriteIsAcceptedOrDropped := by
  refine ⟨fun s m ms off w hhost hact hoff hland => ?_, fun _ => rfl⟩
  have hstep : step s = .next (writeCmd { s with host := ms } w) := by
    rw [step_of_write hhost hact hland, busWrite_cmd _ w hoff]
  refine ⟨fun hdrop => ?_, fun hbusy herr => ⟨?_, fun hwaits => ⟨fun i hi => ?_, fun e he => ?_⟩⟩⟩
  · exact hstep.trans (congrArg _ (writeCmd_of_notReady (s := { s with host := ms }) w hdrop))
  · exact hstep.trans (congrArg _ (writeCmd_of_ready (s := { s with host := ms }) w hbusy herr))
  · exact (step_of_engine (s := acceptCommand { s with host := ms } w) rfl hwaits).trans (engineMove_of_command hi)
  · exact (step_of_engine (s := acceptCommand { s with host := ms } w) rfl hwaits).trans (engineMove_of_illegal he)

/-! Writes to `CTRL`. -/

theorem readReg_softReset (s : State) {n : Nat} (hn : n ≠ 0) : readReg (softReset s) n = 0 := by
  unfold readReg
  split
  · exact absurd rfl hn
  all_goals rfl

theorem not_valid_softReset_ncg {s : State} {k : Nat} {c : NcCell} (h : cellRead (softReset s).ncg k = some c) :
    c.valid = false := by
  rw [softReset, cellRead_invalidateNc, Option.map_eq_some_iff] at h
  obtain ⟨_, -, rfl⟩ := h
  rfl

theorem not_valid_softReset_mvg {s : State} {k : Nat} {c : MvCell} (h : cellRead (softReset s).mvg k = some c) :
    c.valid = false := by
  rw [softReset, cellRead_invalidateMv, Option.map_eq_some_iff] at h
  obtain ⟨_, -, rfl⟩ := h
  rfl

/-- Settles O8: the step is the write to `CTRL`, and each of its three branches is read off. -/
theorem ctrlWriteResetsOrClearsError : Obligations.CtrlWriteResetsOrClearsError := by
  refine ⟨fun s m ms off v hhost hact hoff hland => ?_, fun _ => rfl⟩
  have hstep : step s = .next (writeCtrl { s with host := ms } v) := by
    rw [step_of_write hhost hact hland, busWrite_ctrl _ v hoff]
  refine ⟨fun h0 => ?reset, fun h0 h1 => ?clear, fun h0 h1 => ?nothing⟩
  case reset =>
    refine ⟨softReset { s with host := ms }, by rw [hstep, writeCtrl, if_pos h0], ?_⟩
    exact ⟨rfl, rfl, rfl, rfl, rfl, rfl, fun _ hn => readReg_softReset _ hn, rfl, fun _ _ => not_valid_softReset_ncg,
      fun _ _ => not_valid_softReset_mvg, rfl, rfl, rfl, rfl, rfl, rfl, rfl, rfl, rfl, rfl⟩
  case clear => rw [hstep, writeCtrl, h0, if_neg (by decide), if_pos h1, errorClear]
  case nothing => rw [hstep, writeCtrl, h0, h1, if_neg (by decide), if_neg (by decide)]

/-! Writes to the other registers. -/

theorem setWidth_setWidth_eq_and {w : Nat} {mask : Word} (h : ∀ j < 32, mask.getLsbD j = decide (j < w)) (v : Word) :
    (v.setWidth w).setWidth 32 = v &&& mask := by
  ext j hj
  have hm := h j hj
  simp only [BitVec.getElem_setWidth, BitVec.getLsbD_setWidth, BitVec.getElem_and] at *
  rw [← BitVec.getLsbD_eq_getElem, ← BitVec.getLsbD_eq_getElem, hm, Bool.and_comm]

theorem clampToBuffer_eq (s : State) (v : Word) :
    clampToBuffer s v = if v.toNat ≤ 8 * s.params.bsbBytes then v else BitVec.ofNat 32 (8 * s.params.bsbBytes) := by
  rw [clampToBuffer, bufferBits]
  split_ifs with h
  · rw [Nat.min_eq_left h, BitVec.ofNat_toNat, BitVec.setWidth_eq]
  · rw [Nat.min_eq_right (by omega)]

/-- A writable register reads as the fields that were written (10_state.md R59 .. R67). -/
theorem readReg_writeReg_self (s : State) {n : Nat} (v : Word) (h6 : 6 ≤ n) (h14 : n ≤ 14) :
    readReg (writeReg s n v) n = fieldsOf s n v := by
  interval_cases n
  · rfl
  · rfl
  · exact setWidth_setWidth_eq_and (by decide) v
  · exact setWidth_setWidth_eq_and (by decide) v
  · exact clampToBuffer_eq s v
  · exact clampToBuffer_eq s v
  · exact setWidth_setWidth_eq_and (by decide) v
  · exact setWidth_setWidth_eq_and (by decide) v
  · exact setWidth_setWidth_eq_and (by decide) v

theorem readReg_writeReg_of_ne (s : State) {n j : Nat} (v : Word) (h : j ≠ n) :
    readReg (writeReg s n v) j = readReg s j := by
  unfold writeReg
  split
  all_goals
    unfold readReg
    split <;> trivial

theorem writeStatus_eq (s : State) (v : Word) : writeStatus s v = { s with drop := s.drop && !v.getLsbD 3 } := by
  rw [writeStatus]
  cases v.getLsbD 3 <;> simp

theorem writeReg_of_not_writable (s : State) {n : Nat} (v : Word) (h : ¬(6 ≤ n ∧ n ≤ 14)) : writeReg s n v = s := by
  unfold writeReg
  split <;> simp_all

/-- Settles O9: the step is the write to the register, which reads back as its defined fields. -/
theorem registerWriteStoresDefinedFields : Obligations.RegisterWriteStoresDefinedFields := by
  intro s m ms off v hhost hact hbusy
  have hstep : step s = .next (busWrite { s with host := ms } off v) :=
    step_of_write hhost hact fun hb => by rw [hbusy] at hb; cases hb
  refine ⟨fun h6 h14 => ?writable, fun hoff => ?status, fun h64 hnot h1 h2 h3 => ?ignored⟩
  case writable =>
    refine ⟨writeReg { s with host := ms } (off.toNat / 4) v, ?_, ⟨readReg_writeReg_self _ v h6 h14, ?_, ?_⟩, ?_, ?_⟩
    · rw [hstep, busWrite_register (s := { s with host := ms }) v hbusy] <;> omega
    · exact fun j hj _ => readReg_writeReg_of_ne _ v hj
    · simpa using writeReg_frame { s with host := ms } (off.toNat / 4) v
    · exact (writeReg_busy _ _ _).trans hbusy
    · exact writeReg_done _ _ _
  case status => rw [hstep, busWrite_status _ v hoff, writeStatus_eq]
  case ignored =>
    rw [hstep, busWrite_register (s := { s with host := ms }) v hbusy h64 h1 h2 h3, writeReg_of_not_writable _ v hnot]

/-! The state after power-on. -/

/-- Settles O12: `State.reset` lists nothing and has every register at 0. -/
theorem powerOnState : Obligations.PowerOnState := by
  have hreg : ∀ n, n ≠ 0 → readReg State.reset n = 0 := by
    intro n hn
    unfold readReg
    split
    · exact absurd rfl hn
    all_goals rfl
  exact ⟨rfl, hreg, rfl, rfl, rfl, rfl, rfl, rfl, nofun, nofun, fun _ => rfl, fun _ => rfl, fun _ => rfl, fun _ => rfl⟩

/-- Settles O22: nothing is listed, no flag is set, and the cursor is at 0. -/
theorem powerOnMeetsTheInvariants : Obligations.PowerOnMeetsTheInvariants :=
  ⟨wf_powerOn Params.vectors, rfl, ⟨Nat.zero_le _, Nat.zero_le _⟩, ⟨nofun, nofun, iff_of_true rfl rfl⟩,
    ⟨nofun, nofun, nofun, nofun⟩, nofun⟩

/-! The faults of the transforms. -/

theorem readSlot_of_unwritten {s : State} {slot : Slot} (h : ∃ r c, s.elemUnwritten slot r c) :
    readSlot s slot = .error (.fault .undefinedRead) := by
  obtain ⟨r, c, hrc⟩ := h
  refine readEach_fault (fun _ _ _ hx => (readElem_eq_error.mp hx).2) ⟨4 * r.val + c.val, ?_, ?_⟩
  · exact List.mem_range.mpr (by omega)
  · exact readElem_eq_error.mpr ⟨by rw [cbKey, ← Nat.add_assoc]; exact hrc, rfl⟩

/-- A whole slot is read, or the read faults: it raises no error. -/
theorem readSlot_ok_or_fault (s : State) (slot : Slot) :
    (∃ b, readSlot s slot = .ok b) ∨ readSlot s slot = .error (.fault .undefinedRead) := by
  cases h : readSlot s slot with
  | ok b => exact .inl ⟨b, rfl⟩
  | error x =>
    obtain ⟨k, -, hk⟩ := readEach_eq_error h
    exact .inr (by rw [(readElem_eq_error.mp hk).2])

/-- Settles O45: the source is read before anything but the check of `QP`, and the read faults. -/
theorem transformsFaultOnUnwrittenSource : Obligations.TransformsFaultOnUnwrittenSource := by
  intro s d src u f hsrc
  have hread := readSlot_of_unwritten hsrc
  refine ⟨by simp [exec, execFcore, hread], by simp [exec, execIdct, hread], fun hqp => ?_⟩
  have hcheck : checkQp s = .ok () := checkQp_eq_ok.mpr hqp
  refine ⟨by simp [exec, execFquant, hcheck, hread], by simp [exec, execFhadq, hcheck, hread],
    by simp [exec, execIquant, hcheck, hread], by simp [exec, execIhadq, hcheck, hread],
    by simp [exec, execPres, hcheck, hread], ?_⟩
  obtain ⟨b, hu⟩ | hu := readSlot_ok_or_fault s u <;> simp [exec, execPres, hcheck, hread, hu]

/-! The errors and the faults of the Exp-Golomb reads. -/

/-- The scan passes over zeros that are written and lie before `BITLEN`. -/
theorem countZeros_of_zeros {s : State} (start room L : Nat) {pos zeros : Nat}
    (h : s.streamHolds pos (List.replicate L false)) (hlen : pos + L ≤ s.bitlen.toNat) :
    countZeros s start (room + L) pos zeros = countZeros s start room (pos + L) (zeros + L) := by
  induction L generalizing pos zeros with
  | zero => rfl
  | succ L ih =>
    have hbit : streamBit s pos = .ok false := streamBit_eq_ok.mpr (by simpa using h 0 (by simp))
    have hrest : s.streamHolds (pos + 1) (List.replicate L false) := by
      intro j hj
      have := h (j + 1) (by simpa using hj)
      simpa [Nat.add_assoc, Nat.add_comm 1] using this
    have hneed : needBits s start pos 1 = .ok () := needBits_eq_ok.mpr (by omega)
    rw [← Nat.add_assoc, countZeros, hneed, ok_bind, hbit, ok_bind, if_neg (by decide), ih hrest (by omega)]
    congr 1 <;> omega

/-- The scan stops at the end of the stream. -/
theorem countZeros_of_end {s : State} (start room zeros : Nat) {pos : Nat} (h : s.bitlen.toNat ≤ pos) :
    countZeros s start (room + 1) pos zeros = .error (.raise .bitstreamExhausted start) := by
  rw [countZeros, needBits_of_not (by omega), error_bind]

theorem countZeros_of_one {s : State} (start room zeros : Nat) {pos : Nat} (h : pos < s.bitlen.toNat)
    (hone : cellRead s.bsb pos = some true) : countZeros s start (room + 1) pos zeros = .ok (zeros, pos + 1) := by
  rw [countZeros, needBits_eq_ok (u := ()).mpr h, ok_bind, streamBit_eq_ok.mpr hone, ok_bind, if_pos rfl, pure_eq_ok]

theorem countZeros_of_unwritten {s : State} (start room zeros : Nat) {pos : Nat} (h : pos < s.bitlen.toNat)
    (hbit : cellRead s.bsb pos = none) :
    countZeros s start (room + 1) pos zeros = .error (.fault .undefinedRead) := by
  rw [countZeros, needBits_eq_ok (u := ()).mpr h, ok_bind, streamBit, hbit, written_none, error_bind]

theorem streamBits_of_unwritten {s : State} {pos n : Nat} (h : ∃ j < n, cellRead s.bsb (pos + j) = none) :
    streamBits s pos n = .error (.fault .undefinedRead) := by
  obtain ⟨j, hj, hbit⟩ := h
  have hread : readEach (streamBit s) (List.range' pos n) = .error (.fault .undefinedRead) :=
    readEach_fault (fun _ _ _ hx => (written_eq_error.mp hx).2)
      ⟨pos + j, List.mem_range'_1.mpr (by omega), written_eq_error.mpr ⟨hbit, rfl⟩⟩
  rw [streamBits, hread, error_bind]

/-- After at most 31 zeros there is room for another bit. -/
theorem countZeros_after_zeros {s : State} {start L : Nat} (hL : L ≤ 31)
    (h : s.streamHolds start (List.replicate L false)) (hlen : start + L ≤ s.bitlen.toNat) :
    ∃ room, countZeros s start 32 start 0 = countZeros s start (room + 1) (start + L) L := by
  refine ⟨31 - L, ?_⟩
  have hscan := countZeros_of_zeros start (31 - L + 1) L (zeros := 0) h hlen
  rwa [show 31 - L + 1 + L = 32 by omega, Nat.zero_add] at hscan

/-- The zeros of a codeword whose 1 is written and lies before `BITLEN`. -/
theorem countZeros_of_codeword {s : State} {start L : Nat} (hL : L ≤ 31)
    (h : s.streamHolds start (List.replicate L false ++ [true])) (hlen : start + (L + 1) ≤ s.bitlen.toNat) :
    countZeros s start 32 start 0 = .ok (L, start + (L + 1)) := by
  have hzeros : s.streamHolds start (List.replicate L false) := by
    intro j hj
    have := h j (by rw [List.length_append]; omega)
    rwa [List.getElem_append_left hj] at this
  have hone : cellRead s.bsb (start + L) = some true := by simpa using h L (by simp)
  obtain ⟨room, hscan⟩ := countZeros_after_zeros hL hzeros (by omega)
  rw [hscan, countZeros_of_one _ _ _ (by omega) hone, Nat.add_assoc]

theorem readUe_of_countZeros_error {s : State} {start : Nat} {x : Stop} (h : countZeros s start 32 start 0 = .error x) :
    readUe s start = .error x := by
  rw [readUe, h, error_bind]

/-- The three reads of an Exp-Golomb code stop as the read of the code stops. -/
theorem exec_of_readUe_error {s : State} {i : Instr} (hi : i = .bsrdue ∨ i = .bsrdse ∨ ∃ intra, i = .bsrdme intra)
    {x : Stop} (h : readUe s s.bitpos.toNat = .error x) : exec i s = runCommand s (.error x) := by
  obtain rfl | rfl | ⟨intra, rfl⟩ := hi
  · rw [exec, execBsrdue, here, h, error_bind]
  · rw [exec, execBsrdse, here, h, error_bind]
  · rw [exec, execBsrdme, here, h, error_bind]

/-- Settles O32: the scan for the 1 stops in one of four ways, and the suffix in one of two. -/
theorem expGolombReadErrors : Obligations.ExpGolombReadErrors := by
  intro s i hi
  refine ⟨fun L hL hzeros hend => ?noOne, fun L hL hcode hone hsuffix => ?shortSuffix, fun hzeros hlen => ?tooManyZeros,
    fun L hL hzeros hlen hbit => ?unwrittenOne, fun L hL hcode hlen hbit => ?unwrittenSuffix⟩
  case noOne =>
    refine exec_of_readUe_error hi (x := .raise .bitstreamExhausted _) (readUe_of_countZeros_error ?_)
    obtain hend | ⟨rfl, hend⟩ := hend
    · obtain ⟨room, hscan⟩ := countZeros_after_zeros hL hzeros hend.ge
      rw [hscan, countZeros_of_end _ _ _ hend.le]
    · exact countZeros_of_end _ 31 0 hend
  case shortSuffix =>
    refine exec_of_readUe_error hi (x := .raise .bitstreamExhausted _) ?_
    rw [readUe, countZeros_of_codeword hL hcode hone, ok_bind]
    dsimp only
    rw [needBits_of_not (by omega), error_bind]
  case tooManyZeros =>
    refine exec_of_readUe_error hi (x := .raise .malformedVlcCode _) (readUe_of_countZeros_error ?_)
    exact countZeros_of_zeros _ 0 32 hzeros hlen
  case unwrittenOne =>
    refine exec_of_readUe_error hi (x := .fault .undefinedRead) (readUe_of_countZeros_error ?_)
    obtain ⟨room, hscan⟩ := countZeros_after_zeros hL hzeros hlen.le
    rw [hscan, countZeros_of_unwritten _ _ _ hlen hbit]
  case unwrittenSuffix =>
    refine exec_of_readUe_error hi (x := .fault .undefinedRead) ?_
    rw [readUe, countZeros_of_codeword hL hcode (by omega), ok_bind]
    dsimp only
    rw [needBits_eq_ok (u := ()).mpr (by omega), ok_bind, streamBits_of_unwritten hbit, error_bind]

end Sys2Proof.Machine
end

section
/-! The host bus (20_memory.md R121 .. R125): which window an offset reaches, what a write stores there, what a read
returns, and what either does while a command runs. -/

namespace Sys2Proof.Machine

/-! Host moves as steps. -/

theorem step_of_read {s : State} {m : HostMove} {ms : List HostMove} {off : Word} (hhost : s.host = m :: ms)
    (hact : m.action = .read off) (hbusy : s.busy = true → m.whileBusy = true) :
    step s = busRead { s with host := ms } off := by
  rw [step_of_host hhost fun hb => by simp [landsWhileBusy, hact, isBusAccess, hbusy hb], hact, hostAct]

theorem step_of_supplyRef {s : State} {m : HostMove} {ms : List HostMove} {y x : BitVec 12} {v : Byte}
    (hhost : s.host = m :: ms) (hact : m.action = .supplyRef y x v) (hbusy : s.busy = false) :
    step s = .next { s with host := ms, refFrame := cellWrite (frameKey y.toNat x.toNat) v s.refFrame } := by
  rw [step_of_host hhost (by simp [hbusy]), hact, hostAct]

theorem step_of_supplyRec {s : State} {m : HostMove} {ms : List HostMove} {y x : BitVec 12} {v : Byte}
    (hhost : s.host = m :: ms) (hact : m.action = .supplyRec y x v) (hbusy : s.busy = false) :
    step s = .next { s with host := ms, recFrame := cellWrite (frameKey y.toNat x.toNat) v s.recFrame } := by
  rw [step_of_host hhost (by simp [hbusy]), hact, hostAct]

theorem hostWaits_of_not_lands {s : State} {m : HostMove} {ms : List HostMove} (hhost : s.host = m :: ms)
    (h : landsWhileBusy m = false) : s.hostWaits := by
  intro m' ms' hhost'
  rw [hhost, List.cons.injEq] at hhost'
  rw [← hhost'.1, h]

/-- A store of a frame sample is no bus access: it waits for the running command (log 12). -/
theorem landsWhileBusy_of_supply {m : HostMove} {y x : BitVec 12} {v : Byte}
    (h : m.action = .supplyRef y x v ∨ m.action = .supplyRec y x v) : landsWhileBusy m = false := by
  obtain h | h := h <;> rw [landsWhileBusy, h, isBusAccess, Bool.and_false]

/-! The windows of the address map (20_memory.md R123), at any offset of the word. -/

section
variable (s : State) {off : Word}

theorem windowOf_register (h : off.toNat / 4 < 64) : windowOf s (wordOffset off) = .register (off.toNat / 4) := by
  rw [windowOf, wordOffset, if_pos (by omega), Nat.mul_div_cancel _ (by decide)]

theorem windowOf_coeff (hlo : 0x1000 ≤ off.toNat) (hhi : off.toNat < 0x1800) :
    windowOf s (wordOffset off) = .coeff ((off.toNat - 0x1000) / 4) := by
  rw [windowOf, wordOffset, if_neg (by omega), if_pos (by omega)]
  exact congrArg _ (by omega)

theorem windowOf_predBytes (hlo : 0x2000 ≤ off.toNat) (hhi : off.toNat < 0x2100) :
    windowOf s (wordOffset off) = .predBytes ((off.toNat - 0x2000) / 4 * 4) := by
  rw [windowOf, wordOffset, if_neg (by omega), if_neg (by omega), if_pos (by omega)]
  exact congrArg _ (by omega)

theorem windowOf_srcBytes (hlo : 0x2100 ≤ off.toNat) (hhi : off.toNat < 0x2200) :
    windowOf s (wordOffset off) = .srcBytes ((off.toNat - 0x2100) / 4 * 4) := by
  rw [windowOf, wordOffset, if_neg (by omega), if_neg (by omega), if_neg (by omega), if_pos (by omega)]
  exact congrArg _ (by omega)

theorem windowOf_streamBytes (hlo : 0x10000 ≤ off.toNat) (hhi : off.toNat / 4 * 4 < 0x10000 + s.params.bsbBytes) :
    windowOf s (wordOffset off) = .streamBytes ((off.toNat - 0x10000) / 4 * 4) := by
  rw [windowOf, wordOffset, if_neg (by omega), if_neg (by omega), if_neg (by omega), if_neg (by omega),
    if_pos (by omega)]
  exact congrArg _ (by omega)

/-- The offsets of no window: the four holes of the address map. -/
theorem windowOf_unmapped (h : (0x100 ≤ off.toNat ∧ off.toNat < 0x1000) ∨ (0x1800 ≤ off.toNat ∧ off.toNat < 0x2000) ∨
      (0x2200 ≤ off.toNat ∧ off.toNat < 0x10000) ∨ 0x10000 + s.params.bsbBytes ≤ off.toNat / 4 * 4) :
    windowOf s (wordOffset off) = .unmapped := by
  rw [windowOf, wordOffset, if_neg (by omega), if_neg (by omega), if_neg (by omega), if_neg (by omega),
    if_neg (by omega)]

end

/-! A write of a word. -/

theorem busWrite_of_idle {s : State} {off : Word} (v : Word) (hbusy : s.busy = false) (h : 0x100 ≤ off.toNat) :
    busWrite s off v = busStore s (wordOffset off) v := by
  have hoff : 0x100 ≤ wordOffset off := by rw [wordOffset]; omega
  rw [busWrite, if_neg (by omega), if_neg (by omega), if_neg (by omega), hbusy, if_neg (by decide)]

theorem busWrite_of_busy {s : State} {off : Word} (v : Word) (hbusy : s.busy = true) (h1 : off.toNat / 4 ≠ 1)
    (h2 : off.toNat / 4 ≠ 2) (h3 : off.toNat / 4 ≠ 3) : busWrite s off v = markDropped s := by
  rw [busWrite, wordOffset, if_neg (by omega), if_neg (by omega), if_neg (by omega), if_pos hbusy]

section
variable {s : State} {o : Nat} (v : Word)

theorem busStore_coeff {k : Nat} (h : windowOf s o = .coeff k) :
    busStore s o v = { s with cb := cellWrite k v s.cb } := by
  rw [busStore, h]

theorem busStore_predBytes {b : Nat} (h : windowOf s o = .predBytes b) :
    busStore s o v = { s with pred := cellWriteAll s.pred (byteEntries b v) } := by
  rw [busStore, h]

theorem busStore_srcBytes {b : Nat} (h : windowOf s o = .srcBytes b) :
    busStore s o v = { s with src := cellWriteAll s.src (byteEntries b v) } := by
  rw [busStore, h]

theorem busStore_streamBytes {b : Nat} (h : windowOf s o = .streamBytes b) :
    busStore s o v = { s with bsb := cellWriteAll s.bsb (streamEntries s b v) } := by
  rw [busStore, h]

theorem busStore_unmapped (h : windowOf s o = .unmapped) : busStore s o v = s := by
  rw [busStore, h]

end

theorem cellRead_byteEntries (b : Nat) (v : Word) (k : Nat) :
    cellRead (byteEntries b v) k = if b ≤ k ∧ k < b + 4 then some (byteOf v (k - b)) else none :=
  cellRead_range_map b 4 (byteOf v) k

/-- The four bytes of a stored word, little-endian. -/
theorem cellRead_cellWriteAll_byteEntries (m : Cells Byte) (w : Nat) (v : Word) {j : Nat} (hj : j < 4) :
    cellRead (cellWriteAll m (byteEntries (w * 4) v)) (w * 4 + j) = some (v.extractLsb' (8 * j) 8) := by
  rw [cellRead_cellWriteAll, cellRead_byteEntries, if_pos (by omega), Nat.add_sub_cancel_left, byteOf]
  rfl

theorem cellRead_cellWriteAll_byteEntries_of_ne (m : Cells Byte) {w k : Nat} (v : Word) (hk : k / 4 ≠ w) :
    cellRead (cellWriteAll m (byteEntries (w * 4) v)) k = cellRead m k := by
  rw [cellRead_cellWriteAll, cellRead_byteEntries, if_neg (by omega)]
  rfl

/-- A read in lists of entries, each of which holds the same `x` at `k` or nothing: the order of the lists does not matter. -/
theorem cellRead_flatMap {α β : Type} {f : β → List (Nat × α)} {p : β → Prop} [DecidablePred p] {x : α} {k : Nat}
    (l : List β) (h : ∀ b ∈ l, cellRead (f b) k = if p b then some x else none) :
    cellRead (l.flatMap f) k = if ∃ b ∈ l, p b then some x else none := by
  induction l with
  | nil => simp
  | cons b l ih =>
    rw [List.flatMap_cons, cellRead_append, h b (by simp), ih fun c hc => h c (by simp [hc])]
    by_cases hb : p b <;> simp [hb]

/-- The bits of byte `j` of a word put at byte `b + j` of the stream, the most significant first. -/
theorem cellRead_byteBits (b j : Nat) (v : Word) (k : Nat) :
    cellRead (bitEntries (8 * (b + j)) (msbBits 8 (byteOf v j).toNat)) k
      = if b + j = k / 8 then some (v.getLsbD (8 * (k / 8 - b) + 7 - k % 8)) else none := by
  rw [cellRead_bitEntries]
  split_ifs with h1 h2 h2
  · rw [List.getElem?_eq_getElem (by rw [length_msbBits]; omega), getElem_msbBits, BitVec.testBit_toNat, byteOf,
      BitVec.getLsbD_extractLsb', decide_eq_true (by omega), Bool.true_and]
    congr 2
    omega
  · exact List.getElem?_eq_none (by rw [length_msbBits]; omega)
  · omega
  · rfl

theorem cellRead_streamEntries (s : State) (b : Nat) (v : Word) (k : Nat) :
    cellRead (streamEntries s b v) k
      = if b ≤ k / 8 ∧ k / 8 < b + 4 ∧ k / 8 < s.params.bsbBytes
        then some (v.getLsbD (8 * (k / 8 - b) + 7 - k % 8)) else none := by
  rw [streamEntries, cellRead_flatMap _ fun j _ => cellRead_byteBits b j v k]
  refine if_congr ?_ rfl rfl
  simp only [List.mem_filter, List.mem_range, decide_eq_true_eq]
  constructor
  · rintro ⟨j, ⟨hj, hb⟩, hk⟩
    omega
  · rintro ⟨hlo, hhi, hb⟩
    exact ⟨k / 8 - b, by omega, by omega⟩

theorem cellRead_cellWriteAll_streamEntries (m : Cells Bool) (s : State) (b : Nat) (v : Word) {j i : Nat} (hj : j < 4)
    (hb : b + j < s.params.bsbBytes) (hi : i < 8) :
    cellRead (cellWriteAll m (streamEntries s b v)) (8 * (b + j) + i) = some (v.getLsbD (8 * j + 7 - i)) := by
  have hbyte : (8 * (b + j) + i) / 8 = b + j := by omega
  have hbit : (8 * (b + j) + i) % 8 = i := by omega
  rw [cellRead_cellWriteAll, cellRead_streamEntries, hbyte, hbit, if_pos (by omega), Nat.add_sub_cancel_left]
  rfl

theorem cellRead_cellWriteAll_streamEntries_of_ne (m : Cells Bool) (s : State) {w k : Nat} (v : Word)
    (hk : k / 32 ≠ w ∨ 8 * s.params.bsbBytes ≤ k) :
    cellRead (cellWriteAll m (streamEntries s (w * 4) v)) k = cellRead m k := by
  rw [cellRead_cellWriteAll, cellRead_streamEntries, if_neg (by omega)]
  rfl

/-- Settles O10: the offset names its window, the store there is read back entry by entry, and a frame store is a host
move that waits while a command runs. -/
theorem memoryWindowWrite : Obligations.MemoryWindowWrite := by
  refine ⟨fun s m ms off v hhost hact hbusy => ?_, fun s m ms y x v hhost hbusy => ⟨fun hact => ?_, fun hact => ?_⟩,
    fun s m ms y x v i hhost hact hbusy hi => ?_⟩
  · have hstep (hoff : 0x100 ≤ off.toNat) : step s = .next (busStore { s with host := ms } (wordOffset off) v) := by
      rw [step_of_write hhost hact (by simp [hbusy]), busWrite_of_idle (s := { s with host := ms }) v hbusy hoff]
    refine ⟨fun hlo hhi => ?coeff, fun hlo hhi => ?pred, fun hlo hhi => ?src, fun hlo hhi => ?stream,
      fun hhole => ?unmapped⟩
    case coeff =>
      rw [hstep (by omega), busStore_coeff v (windowOf_coeff _ hlo hhi)]
      exact ⟨_, rfl, cellRead_cellWrite_self _ v _, fun k hk => cellRead_cellWrite_of_ne hk.symm v _, rfl, rfl⟩
    case pred =>
      rw [hstep (by omega), busStore_predBytes v (windowOf_predBytes _ hlo hhi)]
      exact ⟨_, rfl, fun j hj => cellRead_cellWriteAll_byteEntries _ _ v hj,
        fun k hk => cellRead_cellWriteAll_byteEntries_of_ne _ v hk, rfl, rfl⟩
    case src =>
      rw [hstep (by omega), busStore_srcBytes v (windowOf_srcBytes _ hlo hhi)]
      exact ⟨_, rfl, fun j hj => cellRead_cellWriteAll_byteEntries _ _ v hj,
        fun k hk => cellRead_cellWriteAll_byteEntries_of_ne _ v hk, rfl, rfl⟩
    case stream =>
      rw [hstep (by omega), busStore_streamBytes v (windowOf_streamBytes { s with host := ms } hlo hhi)]
      exact ⟨_, rfl, fun j hj hb i hi => cellRead_cellWriteAll_streamEntries _ _ _ v hj hb hi,
        fun k hk => cellRead_cellWriteAll_streamEntries_of_ne _ _ v hk, rfl, rfl⟩
    case unmapped =>
      rw [hstep (by omega), busStore_unmapped v (windowOf_unmapped { s with host := ms } hhole)]
  · rw [step_of_supplyRef hhost hact hbusy, frameKey, Nat.mul_comm]
    exact ⟨_, rfl, cellRead_cellWrite_self _ v _, fun k hk => cellRead_cellWrite_of_ne hk.symm v _, rfl, rfl⟩
  · rw [step_of_supplyRec hhost hact hbusy, frameKey, Nat.mul_comm]
    exact ⟨_, rfl, cellRead_cellWrite_self _ v _, fun k hk => cellRead_cellWrite_of_ne hk.symm v _, rfl, rfl⟩
  · rw [step_of_engine hbusy (hostWaits_of_not_lands hhost (landsWhileBusy_of_supply hact)), engineMove_of_command hi]

/-! What a register reads as (10_state.md R52 .. R70). -/

theorem toNat_append_eq_mul_add {n m : Nat} (x : BitVec n) (y : BitVec m) :
    (x ++ y).toNat = x.toNat * 2 ^ m + y.toNat := by
  rw [BitVec.toNat_append, ← Nat.shiftLeft_add_eq_or_of_lt y.isLt, Nat.shiftLeft_eq]

theorem errNumber_eq_codeOf (e : ErrCode) : errNumber e = codeOf e := by cases e <;> rfl

theorem toNat_registerShown_status (s : State) :
    (s.registerShown 2).toNat = s.busy.toNat + 2 * s.done.toNat + 4 * s.err.toNat + 8 * s.drop.toNat
      + 256 * (codeOf s.errcode).toNat := by
  simp only [State.registerShown, toNat_append_eq_mul_add, BitVec.toNat_ofNat, BitVec.toNat_ofBool]
  omega

theorem statusWord_eq_registerShown (s : State) : statusWord s = s.registerShown 2 := by
  rw [statusWord, errNumber_eq_codeOf, ← toNat_registerShown_status, BitVec.ofNat_toNat, BitVec.setWidth_eq]

/-- The bits of `STATUS` (10_state.md R55). -/
theorem registerShown_status_bits (s : State) :
    (s.registerShown 2).getLsbD 0 = s.busy ∧ (s.registerShown 2).getLsbD 1 = s.done ∧
    (s.registerShown 2).getLsbD 2 = s.err ∧ (s.registerShown 2).getLsbD 3 = s.drop ∧
    (s.registerShown 2).extractLsb' 4 4 = 0 ∧ (s.registerShown 2).extractLsb' 8 4 = codeOf s.errcode ∧
    (s.registerShown 2).extractLsb' 12 20 = 0 := by
  have hflags : s.busy.toNat ≤ 1 ∧ s.done.toNat ≤ 1 ∧ s.err.toNat ≤ 1 ∧ s.drop.toNat ≤ 1 :=
    ⟨s.busy.toNat_le, s.done.toNat_le, s.err.toNat_le, s.drop.toNat_le⟩
  have hfield (start len : Nat) (x : BitVec len)
      (h : (s.registerShown 2).toNat / 2 ^ start % 2 ^ len = x.toNat) : (s.registerShown 2).extractLsb' start len = x :=
    BitVec.eq_of_toNat_eq (by rw [BitVec.extractLsb'_toNat, Nat.shiftRight_eq_div_pow, h])
  have hcode := (codeOf s.errcode).isLt
  refine ⟨?_, ?_, ?_, ?_, hfield 4 4 0#4 ?_, hfield 8 4 _ ?_, hfield 12 20 0#20 ?_⟩
  iterate 4
    simp only [State.registerShown, BitVec.getLsbD_append, BitVec.getLsbD_ofBool]
    rfl
  all_goals
    simp only [toNat_registerShown_status, BitVec.toNat_ofNat]
    omega

/-- A register narrower than the bus word reads with zeros above its fields. -/
theorem setWidth_eq_zero_append {n m : Nat} (x : BitVec n) : x.setWidth (m + n) = 0#m ++ x := by
  apply BitVec.eq_of_toNat_eq
  rw [toNat_append_eq_mul_add, BitVec.toNat_setWidth_of_le (by omega), BitVec.toNat_ofNat, Nat.zero_mod, Nat.zero_mul,
    Nat.zero_add]

theorem readReg_eq_registerShown (s : State) (n : Nat) : readReg s n = s.registerShown n := by
  match n with
  | 2 => exact statusWord_eq_registerShown s
  | 8 => exact setWidth_eq_zero_append s.qp
  | 9 => exact setWidth_eq_zero_append s.sliceqp
  | 12 => exact setWidth_eq_zero_append s.picdim
  | 13 => exact setWidth_eq_zero_append s.mbpos
  | 14 => exact setWidth_eq_zero_append s.ncreg
  | 16 => exact setWidth_eq_zero_append s.sae
  | 0 | 1 | 3 | 4 | 5 | 6 | 7 | 10 | 11 | 15 | _ + 17 => rfl

/-! A read of a word. -/

/-- A read that the bus answers: any while the block is idle, and of `ID` and `STATUS` always. -/
theorem busRead_of_word {s : State} {off v : Word} (h : s.busy = false ∨ off.toNat / 4 = 0 ∨ off.toNat / 4 = 2)
    (hv : busWord s (wordOffset off) = .ok v) : busRead s off = .next { s with hostData := v } := by
  have hanswered : (s.busy && !decide (wordOffset off = 0) && !decide (wordOffset off = 8)) = false := by
    rw [wordOffset]
    obtain h | h | h := h <;> simp [h]
  rw [busRead, hanswered, if_neg (by decide), hv]

theorem busRead_of_fault {s : State} {off : Word} {f : Fault} (hbusy : s.busy = false)
    (hf : busWord s (wordOffset off) = .error (.fault f)) : busRead s off = .fault f := by
  rw [busRead, hbusy, Bool.false_and, Bool.false_and, if_neg (by decide), hf]

theorem busRead_of_busy {s : State} {off : Word} (hbusy : s.busy = true) (h0 : off.toNat / 4 ≠ 0)
    (h2 : off.toNat / 4 ≠ 2) :
    busRead s off = .next { s with hostData := Config.busyRead s.draws, draws := s.draws + 1 } := by
  have hoff0 : wordOffset off ≠ 0 := by rw [wordOffset]; omega
  have hoff2 : wordOffset off ≠ 8 := by rw [wordOffset]; omega
  rw [busRead, hbusy, decide_eq_false hoff0, decide_eq_false hoff2, if_pos (by decide)]

theorem busWord_register (s : State) {off : Word} (h : off.toNat / 4 < 64) :
    busWord s (wordOffset off) = .ok (s.registerShown (off.toNat / 4)) := by
  rw [busWord, windowOf_register s h, ← readReg_eq_registerShown]
  rfl

/-- Settles O7: the access lands before the command's step, and the bus drops the write, answers the read of `ID` and
`STATUS`, and draws a free value for any other read. -/
theorem busAccessWhileBusy : Obligations.BusAccessWhileBusy := by
  intro s m ms off hhost hbusy hwhile
  have hwrite (v) (hact : m.action = .write off v) : step s = .next (busWrite { s with host := ms } off v) :=
    step_of_write hhost hact fun _ => hwhile
  have hread (hact : m.action = .read off) : step s = busRead { s with host := ms } off :=
    step_of_read hhost hact fun _ => hwhile
  refine ⟨fun v hact h1 h2 h3 => ?dropped, fun v hact h2 => ?statusWrite, fun hact h0 => ?idRead,
    fun hact h2 => ?statusRead, fun hact h0 h2 => ?freeRead⟩
  case dropped => rw [hwrite v hact, busWrite_of_busy (s := { s with host := ms }) v hbusy h1 h2 h3, markDropped]
  case statusWrite => rw [hwrite v hact, busWrite_status _ v h2, writeStatus_eq]
  case idRead =>
    rw [hread hact, busRead_of_word (.inr (.inl h0)) (busWord_register _ (by omega)), h0]
    rfl
  case statusRead =>
    refine ⟨s.registerShown 2, ?_, ?_⟩
    · rw [hread hact, busRead_of_word (.inr (.inr h2)) (busWord_register _ (by omega)), h2]
      rfl
    · simpa only [hbusy] using registerShown_status_bits s
  case freeRead => rw [hread hact, busRead_of_busy (s := { s with host := ms }) hbusy h0 h2]

/-! The bytes of a read word. -/

theorem readEach_range {α : Type} {f : Nat → Cmd α} {n : Nat} {g : Fin n → α} (h : ∀ j : Fin n, f j = .ok (g j)) :
    readEach f (List.range n) = .ok (List.ofFn g) := by
  rw [readEach_eq_ok, List.forall₂_iff_get]
  refine ⟨by simp, fun j hj _ => ?_⟩
  simpa using h ⟨j, by simpa using hj⟩

/-- The word of four bytes, little-endian (20_memory.md R122). -/
theorem wordOfBytes_ofFn (b : Fin 4 → Byte) :
    wordOfBytes ((List.ofFn b).map BitVec.toNat) = b 3 ++ b 2 ++ b 1 ++ b 0 := by
  have h0 := (b 0).isLt
  have h1 := (b 1).isLt
  have h2 := (b 2).isLt
  have h3 := (b 3).isLt
  have hlist : (List.ofFn b).map BitVec.toNat = [(b 0).toNat, (b 1).toNat, (b 2).toNat, (b 3).toNat] := rfl
  apply BitVec.eq_of_toNat_eq
  simp only [wordOfBytes, hlist, List.getD_cons_zero, List.getD_cons_succ, toNat_append_eq_mul_add, BitVec.toNat_ofNat]
  omega

/-- The read of the word at byte `a` of a sample memory: what `busWord` does in both sample windows. -/
def readSampleWord (m : Cells Byte) (a : Nat) : Cmd Word := do
  let bs ← readEach (fun j => written (cellRead m (a + j))) (List.range 4)
  pure (wordOfBytes (bs.map BitVec.toNat))

theorem readSampleWord_of_written {m : Cells Byte} {a : Nat} {b : Fin 4 → Byte}
    (h : ∀ j : Fin 4, cellRead m (a + j.val) = some (b j)) :
    readSampleWord m a = .ok (b 3 ++ b 2 ++ b 1 ++ b 0) := by
  rw [readSampleWord, readEach_range fun j => written_eq_ok.mpr (h j), ok_bind, wordOfBytes_ofFn, pure_eq_ok]

theorem readSampleWord_of_unwritten {m : Cells Byte} {a : Nat} (h : ∃ j < 4, cellRead m (a + j) = none) :
    readSampleWord m a = .error (.fault .undefinedRead) := by
  obtain ⟨j, hj, hnone⟩ := h
  have hread : readEach (fun j => written (cellRead m (a + j))) (List.range 4) = .error (.fault .undefinedRead) :=
    readEach_fault (fun _ _ _ hx => (written_eq_error.mp hx).2)
      ⟨j, List.mem_range.mpr hj, written_eq_error.mpr ⟨hnone, rfl⟩⟩
  rw [readSampleWord, hread, error_bind]

theorem streamByte_of_written {s : State} {a : Nat} {b : Byte} (ha : a < s.params.bsbBytes)
    (h : ∀ n < 8, cellRead s.bsb (8 * a + n) = some (b.getLsbD (7 - n))) : streamByte s a = .ok b.toNat := by
  have hbits : streamBits s (8 * a) 8 = .ok (bitsValue (msbBits 8 b.toNat)) := by
    refine streamBits_of_holds (code := msbBits 8 b.toNat) fun n hn => ?_
    rw [getElem_msbBits, BitVec.testBit_toNat]
    exact h n (by simpa using hn)
  rw [streamByte, if_pos ha, hbits, bitsValue_msbBits, Nat.mod_eq_of_lt b.isLt]

theorem streamByte_eq_error {s : State} {a : Nat} {x : Stop} (h : streamByte s a = .error x) :
    x = .fault .undefinedRead := by
  rw [streamByte] at h
  split_ifs at h
  · obtain h | ⟨_, -, h⟩ := bind_eq_error.mp h
    · obtain ⟨_, -, hbit⟩ := readEach_eq_error h
      exact (written_eq_error.mp hbit).2
    · cases h
  · cases h

/-! The word of each window. -/

section
variable {s : State} {o : Nat}

theorem busWord_coeff {k : Nat} (h : windowOf s o = .coeff k) : busWord s o = written (cellRead s.cb k) := by
  rw [busWord, h]

theorem busWord_predBytes {a : Nat} (h : windowOf s o = .predBytes a) : busWord s o = readSampleWord s.pred a := by
  rw [busWord, h]
  rfl

theorem busWord_srcBytes {a : Nat} (h : windowOf s o = .srcBytes a) : busWord s o = readSampleWord s.src a := by
  rw [busWord, h]
  rfl

theorem busWord_streamBytes_of_written {a : Nat} (hw : windowOf s o = .streamBytes a)
    (ha : a + 3 < s.params.bsbBytes) {b : Fin 4 → Byte}
    (h : ∀ j : Fin 4, ∀ n < 8, cellRead s.bsb (8 * (a + j.val) + n) = some ((b j).getLsbD (7 - n))) :
    busWord s o = .ok (b 3 ++ b 2 ++ b 1 ++ b 0) := by
  have hbytes : readEach (fun j => streamByte s (a + j)) (List.range 4) = .ok ((List.ofFn b).map BitVec.toNat) := by
    rw [List.map_ofFn]
    exact readEach_range fun j => streamByte_of_written (by omega) (h j)
  rw [busWord, hw]
  dsimp only
  rw [hbytes, ok_bind, wordOfBytes_ofFn, pure_eq_ok]

theorem busWord_streamBytes_of_unwritten {a : Nat} (hw : windowOf s o = .streamBytes a)
    (ha : a + 3 < s.params.bsbBytes) (h : ∃ j < 32, cellRead s.bsb (8 * a + j) = none) :
    busWord s o = .error (.fault .undefinedRead) := by
  obtain ⟨j, hj, hnone⟩ := h
  have hbyte : streamByte s (a + j / 8) = .error (.fault .undefinedRead) := by
    rw [streamByte, if_pos (by omega)]
    refine streamBits_of_unwritten ⟨j % 8, by omega, ?_⟩
    rwa [show 8 * (a + j / 8) + j % 8 = 8 * a + j by omega]
  have hread : readEach (fun j => streamByte s (a + j)) (List.range 4) = .error (.fault .undefinedRead) :=
    readEach_fault (fun _ _ _ hx => streamByte_eq_error hx) ⟨j / 8, List.mem_range.mpr (by omega), hbyte⟩
  rw [busWord, hw]
  dsimp only
  rw [hread, error_bind]

theorem busWord_unmapped (h : windowOf s o = .unmapped) : busWord s o = .ok 0 := by
  rw [busWord, h, pure_eq_ok]

end

/-- Settles O11: the offset names its window, and the read there answers the stored word or faults on an entry that
nothing has written. -/
theorem idleReadReturnsTheWord : Obligations.IdleReadReturnsTheWord := by
  intro s m ms off hhost hact hbusy
  have hstep := step_of_read hhost hact (by simp [hbusy])
  have hword (v) (hv : busWord { s with host := ms } (wordOffset off) = .ok v) :
      step s = .next { s with host := ms, hostData := v } := hstep.trans (busRead_of_word (.inl hbusy) hv)
  have hfault (hf : busWord { s with host := ms } (wordOffset off) = .error (.fault .undefinedRead)) :
      step s = .fault .undefinedRead := hstep.trans (busRead_of_fault hbusy hf)
  refine ⟨fun h64 => ⟨?register, readReg_eq_registerShown s _⟩,
    fun hlo hhi => ⟨fun v hv => ?coeff, fun hnone => ?noCoeff⟩, fun hlo hhi b hb => ?pred, fun hlo hhi b hb => ?src,
    fun hlo hhi b hb => ?stream, fun hlo hhi hnone => ?noPred, fun hlo hhi hnone => ?noSrc,
    fun hlo hhi hnone => ?noStream, fun hhole => ?unmapped⟩
  case register => exact hword _ (busWord_register _ h64)
  case coeff => exact hword v ((busWord_coeff (windowOf_coeff _ hlo hhi)).trans (written_eq_ok.mpr hv))
  case noCoeff =>
    exact hfault ((busWord_coeff (windowOf_coeff _ hlo hhi)).trans (written_eq_error.mpr ⟨hnone, rfl⟩))
  case pred =>
    exact hword _ ((busWord_predBytes (windowOf_predBytes _ hlo hhi)).trans (readSampleWord_of_written hb))
  case src => exact hword _ ((busWord_srcBytes (windowOf_srcBytes _ hlo hhi)).trans (readSampleWord_of_written hb))
  case stream =>
    have hwindow := windowOf_streamBytes { s with host := ms } hlo (by dsimp only; omega)
    exact hword _ (busWord_streamBytes_of_written hwindow (by dsimp only; omega) hb)
  case noPred =>
    exact hfault ((busWord_predBytes (windowOf_predBytes _ hlo hhi)).trans (readSampleWord_of_unwritten hnone))
  case noSrc =>
    exact hfault ((busWord_srcBytes (windowOf_srcBytes _ hlo hhi)).trans (readSampleWord_of_unwritten hnone))
  case noStream =>
    have hwindow := windowOf_streamBytes { s with host := ms } hlo (by dsimp only; omega)
    exact hfault (busWord_streamBytes_of_unwritten hwindow (by dsimp only; omega) hnone)
  case unmapped => exact hword 0 (busWord_unmapped (windowOf_unmapped { s with host := ms } hhole))

end Sys2Proof.Machine
end

section
/-! The words of the commands: the fields of a word, and the decoder on the word of each command (30_encoding.md
R160 .. R172). -/

namespace Sys2Proof

/-! The fields of a word. -/

theorem toNat_fieldAt (n : Nat) (w : Word) (lo : Nat) : (fieldAt n w lo).toNat = w.toNat / 2 ^ lo % 2 ^ n :=
  BitVec.toNat_ofNat ..

theorem extractLsb'_eq_fieldAt (n : Nat) (w : Word) (lo : Nat) : w.extractLsb' lo n = fieldAt n w lo :=
  BitVec.eq_of_toNat_eq (by rw [BitVec.extractLsb'_toNat, Nat.shiftRight_eq_div_pow, toNat_fieldAt])

theorem bits_eq_fieldAt (w : Word) (hi lo : Nat) : bits w hi lo = (fieldAt (hi + 1 - lo) w lo).toNat :=
  (toNat_fieldAt ..).symm

theorem flagAt_eq_true {w : Word} {k : Nat} : flagAt w k = true ↔ (fieldAt 1 w k).toNat = 1 := by
  rw [flagAt, decide_eq_true_iff, bits_eq_fieldAt, Nat.add_sub_cancel_left]

theorem flagAt_eq_false {w : Word} {k : Nat} : flagAt w k = false ↔ (fieldAt 1 w k).toNat = 0 := by
  have := (fieldAt 1 w k).isLt
  rw [← Bool.not_eq_true, flagAt_eq_true]
  omega

theorem toNat_flagAt (w : Word) (k : Nat) : (flagAt w k).toNat = (fieldAt 1 w k).toNat := by
  cases h : flagAt w k
  · exact (flagAt_eq_false.mp h).symm
  · exact (flagAt_eq_true.mp h).symm

/-- The `m` low bits of a word, cut at bit `k`. -/
theorem fieldAt_cut (w : Word) (m n k : Nat) (h : n + k = m) :
    (fieldAt m w 0).toNat = (fieldAt n w k).toNat * 2 ^ k + (fieldAt k w 0).toNat := by
  subst h
  simp only [toNat_fieldAt, pow_zero, Nat.div_one]
  rw [Nat.add_comm n k, Nat.pow_add, Nat.mod_mul, Nat.mul_comm, Nat.add_comm]

theorem planeCode_planeOf {v : Nat} (h : v < 4) : planeCode (planeOf v) = v := by
  interval_cases v <;> rfl

theorem planeOf_planeCode (p : Option Plane) : planeOf (planeCode p) = p := by
  rcases p with _ | p
  · rfl
  · cases p <;> rfl

theorem mncOf_eq_ok {v : Nat} {m : Mnc} : mncOf v = .ok m ↔ mncCode m = v := by
  match v with
  | 0 | 1 | 2 => cases m <;> simp [mncOf, mncCode]
  | v + 3 => cases m <;> simp [mncOf, mncCode]

/-- A word is made of its opcode and of its bits 25 .. 0. -/
theorem wordOf_bits (w : Word) : wordOf (bits w 31 26) (bits w 25 0) = w := by
  refine BitVec.eq_of_toNat_eq ?_
  have := w.isLt
  simp only [wordOf, bits, BitVec.toNat_ofNat]
  omega

/-! The fields of a word made of an opcode and the bits below it. -/

section
variable {op rest : Nat}

/-- Bits 25 .. 0 of the word are `rest`, wherever they are cut. -/
theorem wordOf_div_mod {lo n : Nat} (h : lo + n ≤ 26) :
    (wordOf op rest).toNat / 2 ^ lo % 2 ^ n = rest / 2 ^ lo % 2 ^ n := by
  have hdvd : 2 ^ (lo + n) ∣ 2 ^ 26 := Nat.pow_dvd_pow 2 h
  have hmod : (wordOf op rest).toNat % 2 ^ (lo + n) = rest % 2 ^ (lo + n) := by
    rw [wordOf, BitVec.toNat_ofNat, Nat.mod_mod_of_dvd _ (hdvd.trans (by decide)), ← Nat.mod_mod_of_dvd _ hdvd,
      Nat.mul_add_mod_self_right, Nat.mod_mod_of_dvd _ hdvd]
  rw [← Nat.mod_mul_right_div_self, ← Nat.mod_mul_right_div_self, ← Nat.pow_add, hmod]

theorem fieldAt_wordOf {n lo : Nat} (v : BitVec n) (h : lo + n ≤ 26) (hv : rest / 2 ^ lo % 2 ^ n = v.toNat) :
    fieldAt n (wordOf op rest) lo = v :=
  BitVec.eq_of_toNat_eq (by rw [toNat_fieldAt, wordOf_div_mod h, hv])

theorem flagAt_wordOf {k : Nat} (b : Bool) (h : k < 26) (hb : rest / 2 ^ k % 2 = b.toNat) :
    flagAt (wordOf op rest) k = b := by
  rw [flagAt, bits, wordOf_div_mod (by omega), Nat.add_sub_cancel_left, pow_one, hb]
  cases b <;> rfl

theorem bits_wordOf_low {hi lo : Nat} (hhi : hi < 26) (hlo : lo ≤ hi) :
    bits (wordOf op rest) hi lo = rest / 2 ^ lo % 2 ^ (hi + 1 - lo) :=
  wordOf_div_mod (by omega)

theorem planeOf_wordOf (p : Option Plane) (h : rest / 2 ^ 17 % 2 ^ 2 = planeCode p) :
    planeOf (bits (wordOf op rest) 18 17) = p := by
  rw [bits_wordOf_low (by decide) (by decide), h, planeOf_planeCode]

theorem mncOf_wordOf (m : Mnc) (h : rest / 2 ^ 19 % 2 ^ 2 = mncCode m) :
    mncOf (bits (wordOf op rest) 20 19) = .ok m := by
  rw [mncOf_eq_ok, bits_wordOf_low (by decide) (by decide), h]

end

/-! Reserved fields (30_encoding.md R174). -/

/-- Every bit range of `zs` is 0 in `w`. -/
def Clear (w : Word) (zs : List (Nat × Nat)) : Prop := ∀ z ∈ zs, bits w z.1 z.2 = 0

theorem zeroed_of_clear {w : Word} {zs : List (Nat × Nat)} (h : Clear w zs) (e : Except DecodeError Instr) :
    zeroed w zs e = e :=
  if_pos (List.all_eq_true.mpr fun z hz => decide_eq_true (h z hz))

theorem zeroed_eq_ok {w : Word} {zs : List (Nat × Nat)} {e : Except DecodeError Instr} {i : Instr} :
    zeroed w zs e = .ok i ↔ Clear w zs ∧ e = .ok i := by
  unfold zeroed
  split_ifs with h <;> simp_all [Clear]

theorem clear_wordOf {op rest : Nat} {zs : List (Nat × Nat)}
    (h : ∀ z ∈ zs, z.1 < 26 ∧ z.2 ≤ z.1 ∧ rest / 2 ^ z.2 % 2 ^ (z.1 + 1 - z.2) = 0) : Clear (wordOf op rest) zs :=
  fun z hz => (bits_wordOf_low (h z hz).1 (h z hz).2.1).trans (h z hz).2.2

/-! The decoder on the words of each format (30_encoding.md R162 .. R169). -/

section
variable (op : Nat)

theorem zeroed_wordOf_zero (e : Except DecodeError Instr) : zeroed (wordOf op 0) [(25, 0)] e = e :=
  zeroed_of_clear (clear_wordOf (by simp)) e

theorem zeroed_wordOf_field {n : Nat} (hn : n < 26) (mk : BitVec n → Instr) (v : BitVec n) :
    zeroed (wordOf op v.toNat) [(25, n)] (.ok (mk (fieldAt n (wordOf op v.toNat) 0))) = .ok (mk v) := by
  have hclear : Clear (wordOf op v.toNat) [(25, n)] :=
    clear_wordOf (by simp [Nat.div_eq_of_lt v.isLt]; omega)
  rw [zeroed_of_clear hclear, fieldAt_wordOf v (by omega) (by simp [Nat.mod_eq_of_lt v.isLt])]

theorem zeroed_wordOf_flag (mk : Bool → Instr) (b : Bool) :
    zeroed (wordOf op b.toNat) [(25, 1)] (.ok (mk (flagAt (wordOf op b.toNat) 0))) = .ok (mk b) := by
  have := b.toNat_lt
  rw [zeroed_of_clear (clear_wordOf (by simp; omega)), flagAt_wordOf b (by decide) (by omega)]

theorem decodeR_wordOf (mk : BitVec 6 → BitVec 16 → Instr) (rsel : BitVec 6) (imm16 : BitVec 16) :
    decodeR (wordOf op (rsel.toNat * 2 ^ 20 + imm16.toNat)) mk = .ok (mk rsel imm16) := by
  have := rsel.isLt
  have := imm16.isLt
  rw [decodeR, zeroed_of_clear (clear_wordOf (by simp; omega)), fieldAt_wordOf rsel (by decide) (by omega),
    fieldAt_wordOf imm16 (by decide) (by omega)]

theorem decodeC_wordOf (mk : Slot → Mnc → Option Plane → Bool → Two → Two → Bool → Instr) (slot : Slot)
    (mnc : Mnc) (plane : Option Plane) (ncsel : Bool) (bx byy : Two) (wb : Bool) :
    decodeC (wordOf op (restC slot mnc plane ncsel bx byy wb)) mk = .ok (mk slot mnc plane ncsel bx byy wb) := by
  have := slot.isLt
  have := Laws.Opcode.mncCode_lt mnc
  have := Laws.Opcode.planeCode_lt plane
  have := ncsel.toNat_lt
  have := bx.isLt
  have := byy.isLt
  have := wb.toNat_lt
  unfold restC
  rw [decodeC, zeroed_of_clear (clear_wordOf (by simp; omega)), mncOf_wordOf mnc (by omega),
    fieldAt_wordOf slot (by decide) (by omega), planeOf_wordOf plane (by omega),
    flagAt_wordOf ncsel (by decide) (by omega), fieldAt_wordOf bx (by decide) (by omega),
    fieldAt_wordOf byy (by decide) (by omega), flagAt_wordOf wb (by decide) (by omega)]

theorem restC_cell (plane : Option Plane) (bx byy : Two) (flag : Bool) :
    restC 0 .m16 plane false bx byy flag
      = planeCode plane * 2 ^ 17 + bx.toNat * 2 ^ 14 + byy.toNat * 2 ^ 12 + flag.toNat * 2 ^ 11 := by
  simp [restC, mncCode]

/-- `NCSET` and `NCGET`: format C with its first two fields and `ncsel` reserved. -/
theorem zeroed_wordOf_cell (mk : Option Plane → Two → Two → Bool → Instr) (plane : Option Plane) (bx byy : Two)
    (flag : Bool) :
    let w := wordOf op (restC 0 .m16 plane false bx byy flag)
    zeroed w [(25, 19), (16, 16), (10, 0)]
      (.ok (mk (planeOf (bits w 18 17)) (fieldAt 2 w 14) (fieldAt 2 w 12) (flagAt w 11)))
      = .ok (mk plane bx byy flag) := by
  have := Laws.Opcode.planeCode_lt plane
  have := bx.isLt
  have := byy.isLt
  have := flag.toNat_lt
  simp only [restC_cell]
  rw [zeroed_of_clear (clear_wordOf (by simp; omega)), planeOf_wordOf plane (by omega),
    fieldAt_wordOf bx (by decide) (by omega), fieldAt_wordOf byy (by decide) (by omega),
    flagAt_wordOf flag (by decide) (by omega)]

theorem restT_zero (d src : Slot) (flag : Bool) :
    restT d src 0 flag = d.toNat * 2 ^ 21 + src.toNat * 2 ^ 16 + flag.toNat * 2 ^ 10 := by simp [restT]

theorem restT_slot (d : Slot) : restT d 0 0 false = d.toNat * 2 ^ 21 := by simp [restT]

theorem decodeTF_wordOf (mk : Slot → Slot → Bool → Instr) (d src : Slot) (flag : Bool) :
    decodeTF (wordOf op (restT d src 0 flag)) mk = .ok (mk d src flag) := by
  have := d.isLt
  have := src.isLt
  have := flag.toNat_lt
  rw [restT_zero, decodeTF, zeroed_of_clear (clear_wordOf (by simp; omega)), fieldAt_wordOf d (by decide) (by omega),
    fieldAt_wordOf src (by decide) (by omega), flagAt_wordOf flag (by decide) (by omega)]

theorem decodeT_wordOf (mk : Slot → Slot → Instr) (d src : Slot) :
    decodeT (wordOf op (restT d src 0 false)) mk = .ok (mk d src) := by
  have := d.isLt
  have := src.isLt
  rw [restT_zero, Bool.toNat_false, decodeT, zeroed_of_clear (clear_wordOf (by simp; omega)),
    fieldAt_wordOf d (by decide) (by omega), fieldAt_wordOf src (by decide) (by omega)]

theorem zeroed_wordOf_pres (d src t : Slot) :
    let w := wordOf op (restT d src t false)
    zeroed w [(10, 0)] (.ok (.pres (fieldAt 5 w 21) (fieldAt 5 w 16) (fieldAt 5 w 11))) = .ok (.pres d src t) := by
  have := d.isLt
  have := src.isLt
  have := t.isLt
  simp only [restT, Bool.toNat_false]
  rw [zeroed_of_clear (clear_wordOf (by simp; omega)), fieldAt_wordOf d (by decide) (by omega),
    fieldAt_wordOf src (by decide) (by omega), fieldAt_wordOf t (by decide) (by omega)]

theorem zeroed_wordOf_emov (d src : Slot) (dr dc sr sc : Two) :
    let w := wordOf op (restT d src 0 false + dr.toNat * 2 ^ 14 + dc.toNat * 2 ^ 12 + sr.toNat * 2 ^ 10
      + sc.toNat * 2 ^ 8)
    zeroed w [(7, 0)] (.ok (.emov (fieldAt 5 w 21) (fieldAt 5 w 16) (fieldAt 2 w 14) (fieldAt 2 w 12)
      (fieldAt 2 w 10) (fieldAt 2 w 8))) = .ok (.emov d src dr dc sr sc) := by
  have := d.isLt
  have := src.isLt
  have := dr.isLt
  have := dc.isLt
  have := sr.isLt
  have := sc.isLt
  simp only [restT_zero, Bool.toNat_false]
  rw [zeroed_of_clear (clear_wordOf (by simp; omega)), fieldAt_wordOf d (by decide) (by omega),
    fieldAt_wordOf src (by decide) (by omega), fieldAt_wordOf dr (by decide) (by omega),
    fieldAt_wordOf dc (by decide) (by omega), fieldAt_wordOf sr (by decide) (by omega),
    fieldAt_wordOf sc (by decide) (by omega)]

theorem zeroed_wordOf_zeroSlot (d : Slot) :
    let w := wordOf op (restT d 0 0 false)
    zeroed w [(20, 0)] (.ok (.zero (fieldAt 5 w 21))) = .ok (.zero d) := by
  have := d.isLt
  simp only [restT_slot]
  rw [zeroed_of_clear (clear_wordOf (by simp)), fieldAt_wordOf d (by decide) (by omega)]

/-- `RSUB` and `RECON`. -/
theorem zeroed_wordOf_block (mk : Slot → Two → Two → Instr) (slot : Slot) (bx byy : Two) :
    let w := wordOf op (restP slot bx byy)
    zeroed w [(20, 16), (11, 0)] (.ok (mk (fieldAt 5 w 21) (fieldAt 2 w 14) (fieldAt 2 w 12)))
      = .ok (mk slot bx byy) := by
  have := slot.isLt
  have := bx.isLt
  have := byy.isLt
  simp only [restP]
  rw [zeroed_of_clear (clear_wordOf (by simp; omega)), fieldAt_wordOf slot (by decide) (by omega),
    fieldAt_wordOf bx (by decide) (by omega), fieldAt_wordOf byy (by decide) (by omega)]

end

/-! The command a word decodes to is the one it encodes. -/

theorem bits_encode (i : Instr) : bits (encode i) 31 26 = Laws.Opcode.opcodeOf i := by
  open Laws.Opcode in
  cases i
  exacts [nop, setr .., setrh .., gridclr, qpdelta, bsrd _, bspeek _, bsrdue, bsrdse, bswr _, bswrue, bswrse, bsalign _,
    bstrail, bsmore, bsrdme _, bswrme _, cavlcdec .., cavlcenc .., ncset .., ncget .., zzfwd .., zzinv .., fcore ..,
    fquant .., fhadq .., iquant .., idct .., ihadq .., pres .., emov .., zero _, ipred _, ipsel, rsub .., recon ..,
    rcopy, mvpred, mvset _, mcopy]

theorem decodeFields_encode (i : Instr) : decodeFields (encode i) = .ok i := by
  rw [decodeFields, bits_encode]
  cases i <;> simp only [Laws.Opcode.opcodeOf, encode]
  case nop | gridclr | qpdelta | bsrdue | bsrdse | bswrue | bswrse | bstrail | bsmore | ipsel | rcopy | mvpred
      | mcopy =>
    exact zeroed_wordOf_zero ..
  case setr | setrh => exact decodeR_wordOf ..
  case bsrd | bspeek | bswr | ipred => exact zeroed_wordOf_field _ (by decide) ..
  case bsalign | bsrdme | bswrme | mvset => exact zeroed_wordOf_flag ..
  case cavlcdec | cavlcenc => exact decodeC_wordOf ..
  case ncset | ncget => exact zeroed_wordOf_cell ..
  case zzfwd | zzinv | fquant | iquant => exact decodeTF_wordOf ..
  case fcore | fhadq | idct | ihadq => exact decodeT_wordOf ..
  case rsub | recon => exact zeroed_wordOf_block ..
  case pres => exact zeroed_wordOf_pres ..
  case emov => exact zeroed_wordOf_emov ..
  case zero => exact zeroed_wordOf_zeroSlot ..

theorem decode_eq_ok {w : Word} {i : Instr} : decode w = .ok i ↔ decodeFields w = .ok i ∧ i.wellFormed = true := by
  unfold decode
  split
  case h_1 j hj =>
    split_ifs with hwf
    · rw [hj, Except.ok.injEq, iff_self_and]
      exact fun h => h ▸ hwf
    · simp only [hj, Except.ok.injEq, false_iff, not_and]
      exact fun h => h ▸ hwf
  case h_2 e he => simp [he]

/-- Settles O1: the opcode selects the row of the command, and each field is read back. -/
theorem decodeOfEncodeIsTheCommand : Obligations.DecodeOfEncodeIsTheCommand :=
  fun i hwf => decode_eq_ok.mpr ⟨decodeFields_encode i, hwf⟩

end Sys2Proof
end

section
/-! The rows of the opcode map: the mask and the value constraints of each opcode (30_encoding.md R171, R172), what the
decoder does with a word of it, and the engine's step on the word. -/

namespace Sys2Proof

open Machine (rowOf constraintsHold legalWord)

/-! The mask of an opcode (30_encoding.md R172). -/

theorem bits_eq_zero {w : Word} {hi lo : Nat} :
    bits w hi lo = 0 ↔ ∀ k, lo ≤ k → k ≤ hi → w.getLsbD k = false := by
  have hbit (j : Nat) : (bits w hi lo).testBit j = (decide (j < hi + 1 - lo) && w.getLsbD (j + lo)) := by
    rw [bits, Nat.testBit_mod_two_pow, Nat.testBit_div_two_pow, BitVec.testBit_toNat]
  constructor
  · intro h k hlo hhi
    have hk := hbit (k - lo)
    rwa [h, Nat.zero_testBit, decide_eq_true (by omega), Bool.true_and, Nat.sub_add_cancel hlo, eq_comm] at hk
  · intro h
    refine Nat.zero_of_testBit_eq_false fun j => ?_
    rw [hbit]
    by_cases hj : j < hi + 1 - lo
    · rw [h (j + lo) (by omega) (by omega), Bool.and_false]
    · rw [decide_eq_false hj, Bool.false_and]

/-- The mask of a row: ones in the opcode and in the reserved bit ranges `zs`. -/
def reservedMask : List (Nat × Nat) → Nat
  | [] => (2 ^ 6 - 1) <<< 26
  | (hi, lo) :: zs => (2 ^ (hi + 1 - lo) - 1) <<< lo ||| reservedMask zs

theorem testBit_ones_shiftLeft (n lo k : Nat) :
    ((2 ^ n - 1) <<< lo).testBit k = decide (lo ≤ k ∧ k < lo + n) := by
  rw [Nat.testBit_shiftLeft, Nat.testBit_two_pow_sub_one, ← Bool.decide_and, decide_eq_decide]
  omega

theorem testBit_reservedMask {k : Nat} (hk : k < 32) (zs : List (Nat × Nat)) :
    (reservedMask zs).testBit k = true ↔ 26 ≤ k ∨ ∃ z ∈ zs, z.2 ≤ k ∧ k ≤ z.1 := by
  induction zs with
  | nil =>
    rw [reservedMask, testBit_ones_shiftLeft]
    simp [hk]
  | cons z zs ih =>
    have hrange : (z.2 ≤ k ∧ k < z.2 + (z.1 + 1 - z.2)) ↔ z.2 ≤ k ∧ k ≤ z.1 := by omega
    rw [reservedMask, Nat.testBit_or, Bool.or_eq_true, ih, testBit_ones_shiftLeft, decide_eq_true_iff, hrange,
      or_left_comm, List.exists_mem_cons_iff]

theorem getLsbD_opcode (w : Word) {k : Nat} (hk : k < 32) :
    (BitVec.ofNat 32 (bits w 31 26 * 2 ^ 26)).getLsbD k = true ↔ 26 ≤ k ∧ w.getLsbD k = true := by
  rw [BitVec.getLsbD_ofNat, Nat.testBit_mul_two_pow, bits, Nat.testBit_mod_two_pow, Nat.testBit_div_two_pow,
    BitVec.testBit_toNat, decide_eq_true hk, Bool.true_and, Bool.and_eq_true, Bool.and_eq_true, decide_eq_true_iff,
    decide_eq_true_iff]
  refine and_congr_right fun h26 => ?_
  rw [Nat.sub_add_cancel h26]
  exact and_iff_right (by omega)

/-- The opcode is its own and the reserved fields are 0: the test of R172. -/
theorem and_reservedMask_eq_iff {w : Word} {zs : List (Nat × Nat)} (hzs : ∀ z ∈ zs, z.1 < 26) :
    w &&& BitVec.ofNat 32 (reservedMask zs) = BitVec.ofNat 32 (bits w 31 26 * 2 ^ 26) ↔ Clear w zs := by
  have hmask {k : Nat} (hk : k < 32) : (w &&& BitVec.ofNat 32 (reservedMask zs)).getLsbD k = true ↔
      w.getLsbD k = true ∧ (26 ≤ k ∨ ∃ z ∈ zs, z.2 ≤ k ∧ k ≤ z.1) := by
    rw [BitVec.getLsbD_and, BitVec.getLsbD_ofNat, decide_eq_true hk, Bool.true_and, Bool.and_eq_true,
      testBit_reservedMask hk]
  constructor
  · intro h z hz
    refine bits_eq_zero.mpr fun k hlo hhi => ?_
    have h26 := hzs z hz
    have hk : k < 32 := by omega
    refine Bool.eq_false_iff.mpr fun hbit => ?_
    have hopcode := (getLsbD_opcode w hk).mp (h ▸ (hmask hk).mpr ⟨hbit, .inr ⟨z, hz, hlo, hhi⟩⟩)
    omega
  · intro h
    refine BitVec.eq_of_getLsbD_eq fun k hk => Bool.eq_iff_iff.mpr ?_
    rw [hmask hk, getLsbD_opcode w hk, and_comm, and_congr_left_iff]
    refine fun hbit => or_iff_left fun ⟨z, hz, hlo, hhi⟩ => ?_
    exact absurd hbit (Bool.eq_false_iff.mp (bits_eq_zero.mp (h z hz) k hlo hhi))

theorem legalWord_iff_of_row {w : Word} {zs : List (Nat × Nat)} (hzs : ∀ z ∈ zs, z.1 < 26)
    (hrow : rowOf (bits w 31 26) = some (bits w 31 26 * 2 ^ 26, reservedMask zs)) :
    legalWord w ↔ Clear w zs ∧ constraintsHold w := by
  rw [legalWord, extractLsb'_eq_fieldAt, ← bits_eq_fieldAt w 31 26, hrow]
  simp only [Option.some.injEq, exists_eq_left', and_reservedMask_eq_iff hzs]

/-! The value constraints of an opcode (30_encoding.md R171). -/

/-- The opcodes whose rows have value constraints. -/
def constrained : List Nat := [0x01, 0x02, 0x08, 0x09, 0x0C, 0x18, 0x19, 0x1A, 0x1B]

section
variable {v m : Nat} {bx byy : Two}

theorem ncsetFieldsOk_planeOf (hv : v < 4) {all : Bool} : ncsetFieldsOk (planeOf v) bx byy all = true ↔
    (v = 3 → all = true) ∧ (all = true → bx.toNat = 0 ∧ byy.toNat = 0) ∧
      (v = 1 ∨ v = 2 → bx.toNat ≤ 1 ∧ byy.toNat ≤ 1) := by
  interval_cases v <;> cases all <;> simp [ncsetFieldsOk, planeOf, blockInPlane, ← BitVec.toNat_inj]

theorem ncgetFieldsOk_planeOf (hv : v < 4) : ncgetFieldsOk (planeOf v) bx byy = true ↔
    v ≠ 3 ∧ (v = 1 ∨ v = 2 → bx.toNat ≤ 1 ∧ byy.toNat ≤ 1) := by
  interval_cases v <;> simp [ncgetFieldsOk, planeOf, blockInPlane]

theorem cavlcFieldsOk_planeOf (hm : m < 4) (hv : v < 4) {ncsel wb : Bool} :
    (∃ mnc, mncOf m = .ok mnc ∧ cavlcFieldsOk mnc (planeOf v) ncsel bx byy wb = true) ↔
      m ≠ 3 ∧ (m = 2 ↔ v = 3) ∧ (v = 3 → ncsel = false ∧ wb = false ∧ bx.toNat = 0 ∧ byy.toNat = 0) ∧
      (v = 1 ∨ v = 2 → bx.toNat ≤ 1 ∧ byy.toNat ≤ 1) := by
  interval_cases m <;> interval_cases v <;>
    simp [mncOf, cavlcFieldsOk, planeOf, blockInPlane, ← BitVec.toNat_inj, and_assoc]

end

section
variable {w : Word}

theorem constraintsHold_of_unconstrained (hop : bits w 31 26 ∉ constrained) : constraintsHold w := by
  simp only [constrained, List.mem_cons, List.not_mem_nil, or_false, not_or] at hop
  simp [constraintsHold, extractLsb'_eq_fieldAt, ← bits_eq_fieldAt w 31 26, hop]

theorem constraintsHold_register (hop : bits w 31 26 = 0x01 ∨ bits w 31 26 = 0x02) :
    constraintsHold w ↔ regWritable (fieldAt 6 w 20) = true := by
  rw [regWritable, Bool.and_eq_true, decide_eq_true_iff, decide_eq_true_iff]
  obtain hop | hop := hop <;> simp [constraintsHold, extractLsb'_eq_fieldAt, ← bits_eq_fieldAt w 31 26, hop]

theorem constraintsHold_width (hop : bits w 31 26 = 0x08 ∨ bits w 31 26 = 0x09 ∨ bits w 31 26 = 0x0C) :
    constraintsHold w ↔ widthOk (fieldAt 6 w 0) = true := by
  rw [widthOk, decide_eq_true_iff]
  obtain hop | hop | hop := hop <;>
    simp [constraintsHold, extractLsb'_eq_fieldAt, ← bits_eq_fieldAt w 31 26, hop]

theorem constraintsHold_ncset (hop : bits w 31 26 = 0x1A) : constraintsHold w ↔
    ncsetFieldsOk (planeOf (bits w 18 17)) (fieldAt 2 w 14) (fieldAt 2 w 12) (flagAt w 11) = true := by
  rw [bits_eq_fieldAt w 18 17, ncsetFieldsOk_planeOf (fieldAt 2 w 17).isLt, flagAt_eq_true]
  simp [constraintsHold, extractLsb'_eq_fieldAt, ← bits_eq_fieldAt w 31 26, hop]

theorem constraintsHold_ncget (hop : bits w 31 26 = 0x1B) : constraintsHold w ↔
    ncgetFieldsOk (planeOf (bits w 18 17)) (fieldAt 2 w 14) (fieldAt 2 w 12) = true := by
  rw [bits_eq_fieldAt w 18 17, ncgetFieldsOk_planeOf (fieldAt 2 w 17).isLt]
  simp [constraintsHold, extractLsb'_eq_fieldAt, ← bits_eq_fieldAt w 31 26, hop]

theorem constraintsHold_cavlc (hop : bits w 31 26 = 0x18 ∨ bits w 31 26 = 0x19) : constraintsHold w ↔
    ∃ mnc, mncOf (bits w 20 19) = .ok mnc ∧ cavlcFieldsOk mnc (planeOf (bits w 18 17)) (flagAt w 16) (fieldAt 2 w 14)
      (fieldAt 2 w 12) (flagAt w 11) = true := by
  rw [bits_eq_fieldAt w 20 19, bits_eq_fieldAt w 18 17,
    cavlcFieldsOk_planeOf (fieldAt 2 w 19).isLt (fieldAt 2 w 17).isLt, flagAt_eq_false, flagAt_eq_false]
  obtain hop | hop := hop <;> simp [constraintsHold, extractLsb'_eq_fieldAt, ← bits_eq_fieldAt w 31 26, hop]

end

/-! Bits 25 .. 0 of a word with clear reserved fields, format by format (30_encoding.md R162 .. R169). -/

section
variable {w : Word}

theorem rest_eq_zero (h : Clear w [(25, 0)]) : 0 = bits w 25 0 := (List.forall_mem_singleton.mp h).symm

theorem rest_eq_field {n : Nat} (hn : n < 26) (h : Clear w [(25, n)]) : (fieldAt n w 0).toNat = bits w 25 0 := by
  have h : (fieldAt (26 - n) w n).toNat = 0 := (bits_eq_fieldAt ..).symm.trans (h _ (List.mem_singleton_self _))
  rw [bits_eq_fieldAt, fieldAt_cut w 26 (26 - n) n (by omega), h, Nat.zero_mul, Nat.zero_add]

theorem rest_eq_flag (h : Clear w [(25, 1)]) : (flagAt w 0).toNat = bits w 25 0 := by
  rw [toNat_flagAt, rest_eq_field (by decide) h]

theorem rest_eq_register (h : Clear w [(19, 16)]) :
    (fieldAt 6 w 20).toNat * 2 ^ 20 + (fieldAt 16 w 0).toNat = bits w 25 0 := by
  simp only [Clear, List.forall_mem_cons, bits_eq_fieldAt, Nat.reduceAdd, Nat.reduceSub] at h ⊢
  rw [fieldAt_cut w 26 6 20 rfl, fieldAt_cut w 20 4 16 rfl]
  omega

theorem rest_eq_restC {mnc : Mnc} (hmnc : mncOf (bits w 20 19) = .ok mnc) (h : Clear w [(10, 0)]) :
    restC (fieldAt 5 w 21) mnc (planeOf (bits w 18 17)) (flagAt w 16) (fieldAt 2 w 14) (fieldAt 2 w 12) (flagAt w 11)
      = bits w 25 0 := by
  simp only [Clear, List.forall_mem_cons, restC, mncOf_eq_ok.mp hmnc, planeCode_planeOf (fieldAt 2 w 17).isLt,
    toNat_flagAt, bits_eq_fieldAt, Nat.reduceAdd, Nat.reduceSub] at h ⊢
  rw [fieldAt_cut w 26 5 21 rfl, fieldAt_cut w 21 2 19 rfl, fieldAt_cut w 19 2 17 rfl, fieldAt_cut w 17 1 16 rfl,
    fieldAt_cut w 16 2 14 rfl, fieldAt_cut w 14 2 12 rfl, fieldAt_cut w 12 1 11 rfl]
  omega

theorem rest_eq_cell (h : Clear w [(25, 19), (16, 16), (10, 0)]) :
    restC 0 .m16 (planeOf (bits w 18 17)) false (fieldAt 2 w 14) (fieldAt 2 w 12) (flagAt w 11) = bits w 25 0 := by
  simp only [Clear, List.forall_mem_cons, restC_cell, planeCode_planeOf (fieldAt 2 w 17).isLt, toNat_flagAt,
    bits_eq_fieldAt, Nat.reduceAdd, Nat.reduceSub] at h ⊢
  rw [fieldAt_cut w 26 7 19 rfl, fieldAt_cut w 19 2 17 rfl, fieldAt_cut w 17 1 16 rfl, fieldAt_cut w 16 2 14 rfl,
    fieldAt_cut w 14 2 12 rfl, fieldAt_cut w 12 1 11 rfl]
  omega

theorem rest_eq_restT_flag (h : Clear w [(15, 11), (9, 0)]) :
    restT (fieldAt 5 w 21) (fieldAt 5 w 16) 0 (flagAt w 10) = bits w 25 0 := by
  simp only [Clear, List.forall_mem_cons, restT_zero, toNat_flagAt, bits_eq_fieldAt, Nat.reduceAdd,
    Nat.reduceSub] at h ⊢
  rw [fieldAt_cut w 26 5 21 rfl, fieldAt_cut w 21 5 16 rfl, fieldAt_cut w 16 5 11 rfl, fieldAt_cut w 11 1 10 rfl]
  omega

theorem rest_eq_restT (h : Clear w [(15, 0)]) :
    restT (fieldAt 5 w 21) (fieldAt 5 w 16) 0 false = bits w 25 0 := by
  simp only [Clear, List.forall_mem_cons, restT_zero, Bool.toNat_false, bits_eq_fieldAt, Nat.reduceAdd,
    Nat.reduceSub] at h ⊢
  rw [fieldAt_cut w 26 5 21 rfl, fieldAt_cut w 21 5 16 rfl]
  omega

theorem rest_eq_pres (h : Clear w [(10, 0)]) :
    restT (fieldAt 5 w 21) (fieldAt 5 w 16) (fieldAt 5 w 11) false = bits w 25 0 := by
  simp only [Clear, List.forall_mem_cons, restT, Bool.toNat_false, bits_eq_fieldAt, Nat.reduceAdd, Nat.reduceSub] at h ⊢
  rw [fieldAt_cut w 26 5 21 rfl, fieldAt_cut w 21 5 16 rfl, fieldAt_cut w 16 5 11 rfl]
  omega

theorem rest_eq_emov (h : Clear w [(7, 0)]) :
    restT (fieldAt 5 w 21) (fieldAt 5 w 16) 0 false + (fieldAt 2 w 14).toNat * 2 ^ 14
      + (fieldAt 2 w 12).toNat * 2 ^ 12 + (fieldAt 2 w 10).toNat * 2 ^ 10 + (fieldAt 2 w 8).toNat * 2 ^ 8
      = bits w 25 0 := by
  simp only [Clear, List.forall_mem_cons, restT_zero, Bool.toNat_false, bits_eq_fieldAt, Nat.reduceAdd,
    Nat.reduceSub] at h ⊢
  rw [fieldAt_cut w 26 5 21 rfl, fieldAt_cut w 21 5 16 rfl, fieldAt_cut w 16 2 14 rfl, fieldAt_cut w 14 2 12 rfl,
    fieldAt_cut w 12 2 10 rfl, fieldAt_cut w 10 2 8 rfl]
  omega

theorem rest_eq_slot (h : Clear w [(20, 0)]) : restT (fieldAt 5 w 21) 0 0 false = bits w 25 0 := by
  simp only [Clear, List.forall_mem_cons, restT_slot, bits_eq_fieldAt, Nat.reduceAdd, Nat.reduceSub] at h ⊢
  rw [fieldAt_cut w 26 5 21 rfl]
  omega

theorem rest_eq_restP (h : Clear w [(20, 16), (11, 0)]) :
    restP (fieldAt 5 w 21) (fieldAt 2 w 14) (fieldAt 2 w 12) = bits w 25 0 := by
  simp only [Clear, List.forall_mem_cons, restP, bits_eq_fieldAt, Nat.reduceAdd, Nat.reduceSub] at h ⊢
  rw [fieldAt_cut w 26 5 21 rfl, fieldAt_cut w 21 5 16 rfl, fieldAt_cut w 16 2 14 rfl, fieldAt_cut w 14 2 12 rfl]
  omega

/-! The rows of the opcode map. -/

/-- The decoder's row for the opcode of `w`, with the reserved fields `zs` and the command `e`: the map's row has their
mask, the command encodes `w` when the fields are clear, and it is well-formed exactly under the row's constraints. -/
structure RowMeets (w : Word) (zs : List (Nat × Nat)) (e : Except DecodeError Instr) : Prop where
  below : ∀ z ∈ zs, z.1 < 26
  row : rowOf (bits w 31 26) = some (bits w 31 26 * 2 ^ 26, reservedMask zs)
  word : Clear w zs → ∀ i, e = .ok i → encode i = w
  values : constraintsHold w ↔ ∃ i, e = .ok i ∧ i.wellFormed = true

theorem wordOf_eq {op rest : Nat} (hop : bits w 31 26 = op) (hrest : rest = bits w 25 0) : wordOf op rest = w := by
  rw [← hop, hrest, wordOf_bits]

/-- A row whose fields all decode. -/
theorem rowMeets_ok {op rest : Nat} {zs : List (Nat × Nat)} {i : Instr} (hop : bits w 31 26 = op)
    (hmap : rowOf op = some (op * 2 ^ 26, reservedMask zs) ∧ ∀ z ∈ zs, z.1 < 26) (hencode : encode i = wordOf op rest)
    (hrest : Clear w zs → rest = bits w 25 0) (hvalues : constraintsHold w ↔ i.wellFormed = true) :
    RowMeets w zs (.ok i) where
  below := hmap.2
  row := by rw [hop, hmap.1]
  word h j hj := by
    cases hj
    rw [hencode, wordOf_eq hop (hrest h)]
  values := by simpa using hvalues

/-- A row without constraints. -/
theorem rowMeets_unconstrained {op rest : Nat} {zs : List (Nat × Nat)} {i : Instr} (hop : bits w 31 26 = op)
    (hmap : (rowOf op = some (op * 2 ^ 26, reservedMask zs) ∧ ∀ z ∈ zs, z.1 < 26) ∧ op ∉ constrained)
    (hencode : encode i = wordOf op rest) (hwf : i.wellFormed = true) (hrest : Clear w zs → rest = bits w 25 0) :
    RowMeets w zs (.ok i) :=
  rowMeets_ok hop hmap.1 hencode hrest (iff_of_true (constraintsHold_of_unconstrained (hop ▸ hmap.2)) hwf)

theorem decodeC_eq_zeroed (w : Word) (mk : Slot → Mnc → Option Plane → Bool → Two → Two → Bool → Instr) :
    decodeC w mk = zeroed w [(10, 0)] ((mncOf (bits w 20 19)).map fun mnc => mk (fieldAt 5 w 21) mnc
      (planeOf (bits w 18 17)) (flagAt w 16) (fieldAt 2 w 14) (fieldAt 2 w 12) (flagAt w 11)) := by
  unfold decodeC
  cases mncOf (bits w 20 19) <;> rfl

/-- The rows of format C, where the value of `mnc` may be none of R166. -/
theorem rowMeets_cavlc {op : Nat} {mk : Slot → Mnc → Option Plane → Bool → Two → Two → Bool → Instr}
    (hop : bits w 31 26 = op)
    (hmap : rowOf op = some (op * 2 ^ 26, reservedMask [(10, 0)]) ∧ (op = 0x18 ∨ op = 0x19))
    (hencode : ∀ slot mnc plane ncsel bx byy wb, encode (mk slot mnc plane ncsel bx byy wb)
      = wordOf op (restC slot mnc plane ncsel bx byy wb))
    (hwf : ∀ slot mnc plane ncsel bx byy wb, (mk slot mnc plane ncsel bx byy wb).wellFormed
      = cavlcFieldsOk mnc plane ncsel bx byy wb) :
    RowMeets w [(10, 0)] ((mncOf (bits w 20 19)).map fun mnc => mk (fieldAt 5 w 21) mnc
      (planeOf (bits w 18 17)) (flagAt w 16) (fieldAt 2 w 14) (fieldAt 2 w 12) (flagAt w 11)) where
  below := by decide
  row := by rw [hop, hmap.1]
  word hclear i hi := by
    cases hmnc : mncOf (bits w 20 19) with
    | ok mnc =>
      rw [hmnc] at hi
      cases hi
      rw [hencode, wordOf_eq hop (rest_eq_restC hmnc hclear)]
    | error e =>
      rw [hmnc] at hi
      cases hi
  values := by
    rw [constraintsHold_cavlc (hop ▸ hmap.2)]
    cases mncOf (bits w 20 19) <;> simp [Except.map, hwf]

end

/-- Everything the decoder can do with a word before the constraints of R171. -/
theorem decodeFields_cases (w : Word) :
    (rowOf (bits w 31 26) = none ∧ decodeFields w = .error .reservedOpcode) ∨
    ∃ zs e, decodeFields w = zeroed w zs e ∧ RowMeets w zs e := by
  unfold decodeFields
  split
  case h_41 =>
    refine .inl ⟨?_, rfl⟩
    unfold rowOf
    split
    case h_41 => rfl
    all_goals contradiction
  -- `CAVLCDEC`, `CAVLCENC`
  case h_18 hop | h_19 hop =>
    exact .inr ⟨_, _, decodeC_eq_zeroed .., rowMeets_cavlc hop (by decide) (fun _ _ _ _ _ _ _ => rfl)
      fun _ _ _ _ _ _ _ => rfl⟩
  all_goals refine .inr ⟨_, _, rfl, ?_⟩
  -- the commands without operands
  case h_1 hop | h_4 hop | h_5 hop | h_8 hop | h_9 hop | h_11 hop | h_12 hop | h_14 hop | h_15 hop | h_34 hop
      | h_37 hop | h_38 hop | h_40 hop =>
    exact rowMeets_unconstrained hop (by decide) rfl rfl rest_eq_zero
  -- `SETR`, `SETRH`
  case h_2 hop | h_3 hop =>
    exact rowMeets_ok hop (by decide) rfl rest_eq_register (constraintsHold_register (by simp [hop]))
  -- `BSRD`, `BSPEEK`, `BSWR`
  case h_6 hop | h_7 hop | h_10 hop =>
    exact rowMeets_ok hop (by decide) rfl (rest_eq_field (by decide)) (constraintsHold_width (by simp [hop]))
  -- `BSALIGN`, `BSRDME`, `BSWRME`, `MVSET`
  case h_13 hop | h_16 hop | h_17 hop | h_39 hop => exact rowMeets_unconstrained hop (by decide) rfl rfl rest_eq_flag
  -- `NCSET`
  case h_20 hop => exact rowMeets_ok hop (by decide) rfl rest_eq_cell (constraintsHold_ncset hop)
  -- `NCGET`
  case h_21 hop => exact rowMeets_ok hop (by decide) rfl rest_eq_cell (constraintsHold_ncget hop)
  -- `ZZFWD`, `ZZINV`, `FQUANT`, `IQUANT`
  case h_22 hop | h_23 hop | h_25 hop | h_27 hop =>
    exact rowMeets_unconstrained hop (by decide) rfl rfl rest_eq_restT_flag
  -- `FCORE`, `FHADQ`, `IDCT`, `IHADQ`
  case h_24 hop | h_26 hop | h_28 hop | h_29 hop => exact rowMeets_unconstrained hop (by decide) rfl rfl rest_eq_restT
  -- `PRES`, `EMOV`, `ZERO`, `IPRED`
  case h_30 hop => exact rowMeets_unconstrained hop (by decide) rfl rfl rest_eq_pres
  case h_31 hop => exact rowMeets_unconstrained hop (by decide) rfl rfl rest_eq_emov
  case h_32 hop => exact rowMeets_unconstrained hop (by decide) rfl rfl rest_eq_slot
  case h_33 hop => exact rowMeets_unconstrained hop (by decide) rfl rfl (rest_eq_field (by decide))
  -- `RSUB`, `RECON`
  case h_35 hop | h_36 hop => exact rowMeets_unconstrained hop (by decide) rfl rfl rest_eq_restP

/-- Settles O2: a word that decodes is made of its opcode and of the command's fields, the reserved ones being 0. -/
theorem encodeOfDecodeIsTheWord : Obligations.EncodeOfDecodeIsTheWord := by
  intro w i h
  obtain ⟨hfields, hwf⟩ := decode_eq_ok.mp h
  obtain ⟨-, hreserved⟩ | ⟨zs, e, hrow, hmeets⟩ := decodeFields_cases w
  · rw [hreserved] at hfields
    cases hfields
  · obtain ⟨hclear, he⟩ := zeroed_eq_ok.mp (hrow ▸ hfields)
    exact ⟨hmeets.word hclear i he, hwf⟩

/-! Legal words (30_encoding.md R171 .. R174). -/

theorem not_legalWord_of_reservedOpcode {w : Word} (h : rowOf (bits w 31 26) = none) : ¬legalWord w := by
  rw [legalWord, extractLsb'_eq_fieldAt, ← bits_eq_fieldAt w 31 26, h]
  simp

theorem legalWord_iff_decode (w : Word) : legalWord w ↔ ∃ i, decode w = .ok i := by
  simp only [decode_eq_ok]
  obtain ⟨hnone, hreserved⟩ | ⟨zs, e, hrow, hmeets⟩ := decodeFields_cases w
  · simp [not_legalWord_of_reservedOpcode hnone, hreserved]
  · simp only [legalWord_iff_of_row hmeets.below hmeets.row, hrow, zeroed_eq_ok, hmeets.values, and_assoc,
      exists_and_left]

/-- Settles O3: the sixteen words, evaluated. -/
theorem workedExamplesDecode : Obligations.WorkedExamplesDecode := by
  unfold Obligations.WorkedExamplesDecode
  decide

end Sys2Proof

namespace Sys2Proof.Machine

/-! The engine's step on a word (30_encoding.md R160). -/

/-- Settles O4: the decoder accepts exactly the legal words, and the engine ends every other one with the error. -/
theorem illegalWordsRaiseIllegalCommand : Obligations.IllegalWordsRaiseIllegalCommand := by
  refine ⟨legalWord_iff_decode, fun s hbusy hwaits hillegal => ?_⟩
  cases hdecode : decode s.cmdlatch with
  | ok i => exact absurd ((legalWord_iff_decode _).mpr ⟨i, hdecode⟩) hillegal
  | error e =>
    rw [step_of_engine hbusy hwaits, engineMove_of_illegal hdecode, errorEnd, here, BitVec.ofNat_toNat,
      BitVec.setWidth_eq]

theorem step_of_command {s : State} {i : Instr} (hbusy : s.busy = true) (hwaits : s.hostWaits)
    (hi : decode s.cmdlatch = .ok i) : step s = exec i s := by
  rw [step_of_engine hbusy hwaits, engineMove_of_command hi]

theorem hostWaits_latched (s : State) (w : Word) : (latched s w).hostWaits := by
  intro m ms hhost
  have hfirst : firstWaits s.host = m :: ms := hhost
  cases hs : s.host with
  | nil =>
    rw [hs] at hfirst
    cases hfirst
  | cons m' ms' =>
    rw [hs] at hfirst
    cases hfirst
    rfl

theorem step_of_idle {s : State} (hbusy : s.busy = false) (hhost : s.host = []) : step s = .next s := by
  rw [step, turnOf, hhost, hbusy]
  rfl

/-- Settles O5: the turn is the engine's while a command runs and the host waits, and else the host's. -/
theorem stepRunsTheDecodedCommand : Obligations.StepRunsTheDecodedCommand :=
  ⟨fun _ _ => step_of_command, fun s _ _ _ => step_of_command rfl (hostWaits_latched s _),
    fun _ _ _ hbusy hhost => step_of_host hhost fun h => absurd h (hbusy ▸ Bool.false_ne_true),
    fun _ => step_of_idle⟩

end Sys2Proof.Machine
end

section
/-! The stream commands: what they read (40_bitstream.md R220 .. R226, R232 .. R234), what they write (R227 .. R231,
R235), and that a read gives back what a write put there. -/

namespace Sys2Proof.Machine

/-! Words and bit strings. -/

theorem toNat_ofNat_of_lt {n : Nat} (h : n < 2 ^ 32) : (BitVec.ofNat 32 n).toNat = n := by
  rw [BitVec.toNat_ofNat, Nat.mod_eq_of_lt h]

theorem toNat_add_width {pos : Word} {n : BitVec 6} (h : pos.toNat + n.toNat < 2 ^ 32) :
    (pos + n.setWidth 32).toNat = pos.toNat + n.toNat := by
  rw [BitVec.toNat_add, BitVec.toNat_setWidth]
  omega

theorem streamHolds_append {s : State} {pos : Nat} {a b : List Bool} :
    s.streamHolds pos (a ++ b) ↔ s.streamHolds pos a ∧ s.streamHolds (pos + a.length) b := by
  constructor
  · intro h
    refine ⟨fun i hi => ?_, fun i hi => ?_⟩
    · have := h i (by rw [List.length_append]; omega)
      rwa [List.getElem_append_left hi] at this
    · have := h (a.length + i) (by rw [List.length_append]; omega)
      rw [List.getElem_append_right (by omega)] at this
      simpa [Nat.add_assoc] using this
  · rintro ⟨ha, hb⟩ i hi
    rw [List.length_append] at hi
    by_cases hia : i < a.length
    · simpa [List.getElem_append_left hia] using ha i hia
    · have := hb (i - a.length) (by omega)
      rwa [Nat.add_assoc, Nat.add_sub_cancel' (by omega), ← List.getElem_append_right (by omega)] at this

/-- The bits of a bit string's number, the first most significant (20_memory.md R125). -/
theorem testBit_bitsValue (code : List Bool) {i : Nat} (hi : i < code.length) :
    (bitsValue code).testBit (code.length - 1 - i) = code[i] := by
  induction code generalizing i with
  | nil => exact absurd hi (Nat.not_lt_zero i)
  | cons b code ih =>
    rw [bitsValue_cons, Nat.mul_comm, Nat.testBit_two_pow_mul_add _ (bitsValue_lt code), List.length_cons]
    cases i with
    | zero => cases b <;> simp
    | succ i =>
      have hi' : i < code.length := by simpa using hi
      rw [if_pos (by omega), List.getElem_cons_succ, ← ih hi']
      congr 1
      omega

/-! Codewords (40_bitstream.md R221). -/

theorem expGolomb_eq_append (L x : Nat) : expGolomb L x = (List.replicate L false ++ [true]) ++ msbBits L x := by
  rw [List.append_assoc]
  rfl

@[simp] theorem length_expGolomb (L x : Nat) : (expGolomb L x).length = 2 * L + 1 := by
  rw [expGolomb_eq_append, List.length_append, List.length_append, List.length_replicate, List.length_singleton,
    length_msbBits]
  omega

/-- The `L + 1` bits of `2^L + x` are a 1 and the suffix `x`. -/
theorem msbBits_two_pow_add {L x : Nat} (hx : x < 2 ^ L) : msbBits (L + 1) (2 ^ L + x) = true :: msbBits L x := by
  have hone : (2 ^ L + x).testBit L = true := by
    rw [Nat.testBit_two_pow_add_eq, Nat.testBit_lt_two_pow hx, Bool.not_false]
  have hsuffix : msbBits L (2 ^ L + x) = msbBits L x := by
    refine List.map_congr_left fun i hi => Nat.testBit_two_pow_add_gt ?_ x
    have := List.mem_range.mp hi
    omega
  rw [msbBits_succ, hone, hsuffix]

/-- The written codeword of a codeNum is the one that stands for it. -/
theorem ueCode_eq_expGolomb {k L x : Nat} (hx : x < 2 ^ L) (hk : k + 1 = 2 ^ L + x) : ueCode k = expGolomb L x := by
  have hlog : Nat.log2 (k + 1) = L := (Nat.log2_eq_iff (by omega)).mpr (by rw [pow_succ]; omega)
  rw [ueCode, hlog, hk, msbBits_two_pow_add hx]
  rfl

/-- Every codeNum below 2^32 - 1 has a codeword of at most 31 zeros. -/
theorem exists_codeword {k : Nat} (hk : k < 2 ^ 32 - 1) : ∃ L x, L ≤ 31 ∧ x < 2 ^ L ∧ k + 1 = 2 ^ L + x := by
  have hle : 2 ^ Nat.log2 (k + 1) ≤ k + 1 := Nat.log2_self_le (by omega)
  have hlt : k + 1 < 2 ^ (Nat.log2 (k + 1) + 1) := Nat.lt_log2_self
  have hL : Nat.log2 (k + 1) < 32 := (Nat.log2_lt (by omega)).mpr (by omega)
  rw [pow_succ] at hlt
  exact ⟨Nat.log2 (k + 1), k + 1 - 2 ^ Nat.log2 (k + 1), by omega, by omega, by omega⟩

theorem codeNum_lt {L x : Nat} (hL : L ≤ 31) (hx : x < 2 ^ L) : 2 ^ L - 1 + x < 2 ^ 32 - 1 := by
  have : 2 ^ L ≤ 2 ^ 31 := Nat.pow_le_pow_right (by decide) hL
  omega

theorem readUe_of_codeword {s : State} {start L x : Nat} (hL : L ≤ 31) (hx : x < 2 ^ L)
    (h : s.streamHolds start (expGolomb L x)) (hlen : start + (2 * L + 1) ≤ s.bitlen.toNat) :
    readUe s start = .ok (2 ^ L - 1 + x, start + (2 * L + 1)) := by
  rw [expGolomb_eq_append, streamHolds_append] at h
  obtain ⟨hleading, hsuffix⟩ := h
  have hbits := streamBits_of_holds hsuffix
  rw [bitsValue_msbBits, Nat.mod_eq_of_lt hx, length_msbBits, List.length_append, List.length_replicate,
    List.length_singleton] at hbits
  rw [readUe, countZeros_of_codeword hL hleading (by omega), ok_bind]
  dsimp only
  rw [needBits_eq_ok (u := ()).mpr (by omega), ok_bind, hbits, ok_bind, pure_eq_ok]
  congr 2
  omega

/-! The signed mapping (40_bitstream.md R222) and the pattern tables (R233). -/

theorem seFromCode_eq_signedOf (k : Nat) : seFromCode k = signedOf k := by
  unfold seFromCode signedOf
  split <;> omega

theorem seToCode_signedOf (k : Nat) : seToCode (signedOf k) = k := by
  unfold seToCode signedOf
  split_ifs <;> omega

theorem signedOf_seToCode (v : Int) : signedOf (seToCode v) = v := by
  unfold seToCode signedOf
  split_ifs <;> omega

/-- The codeNums of codewords stand for the values above -2^31. -/
theorem signedOf_bounds {k : Nat} (hk : k < 2 ^ 32 - 1) : -(2 ^ 31) < signedOf k ∧ signedOf k < 2 ^ 31 := by
  unfold signedOf
  split_ifs <;> omega

theorem seToCode_lt {v : Int} (hlo : -(2 ^ 31) < v) (hhi : v < 2 ^ 31) : seToCode v < 2 ^ 32 - 1 := by
  unfold seToCode
  split_ifs <;> omega

theorem patternOf_eq_cbpTable (intra : Bool) : patternOf intra = cbpTable intra := by cases intra <;> rfl

@[simp] theorem length_cbpTable (intra : Bool) : (cbpTable intra).length = 48 := by cases intra <;> rfl

theorem nodup_cbpTable (intra : Bool) : (cbpTable intra).Nodup := by cases intra <;> decide

theorem mem_cbpTable {intra : Bool} {v : Nat} : v ∈ cbpTable intra ↔ v ≤ 47 := by
  have hle : ∀ v ∈ cbpTable intra, v ≤ 47 := by cases intra <;> decide
  have hmem : ∀ v < 48, v ∈ cbpTable intra := by cases intra <;> decide
  exact ⟨hle v, fun h => hmem v (Nat.lt_succ_of_le h)⟩

/-- A pattern has one codeNum in each table. -/
theorem idxOf_cbpTable {intra : Bool} {k v : Nat} (h : (cbpTable intra)[k]? = some v) :
    (cbpTable intra).idxOf v = k := by
  obtain ⟨hk, rfl⟩ := List.getElem?_eq_some_iff.mp h
  exact (nodup_cbpTable intra).idxOf_getElem k hk

theorem cbpTable_idxOf {intra : Bool} {v : Nat} (hv : v ≤ 47) :
    (cbpTable intra)[(cbpTable intra).idxOf v]? = some v := by
  have hidx := List.idxOf_lt_length_iff.mpr (mem_cbpTable (intra := intra).mpr hv)
  rw [List.getElem?_eq_getElem hidx, List.getElem_idxOf hidx]

/-! What a read command answers. -/

theorem peekField_of_holds {s : State} {code : List Bool} (h : s.streamHolds s.bitpos.toNat code)
    (hlen : s.bitpos.toNat + code.length ≤ s.bitlen.toNat) : peekField s code.length = .ok (bitsValue code) := by
  rw [peekField, here, needBits_eq_ok (u := ()).mpr hlen, ok_bind, streamBits_of_holds h]

section
variable {s : State} {n : BitVec 6}

theorem exec_bsrd_of_width (h : n.toNat ≤ 32) : exec (.bsrd n) s = runCommand s (do
    let v ← peekField s n.toNat
    pure { s with res := BitVec.ofNat 32 v, bitpos := BitVec.ofNat 32 (here s + n.toNat) }) := by
  rw [exec, execBsrd, widthOk, decide_eq_true h, legal_true, ok_bind]

theorem exec_bspeek_of_width (h : n.toNat ≤ 32) : exec (.bspeek n) s = runCommand s (do
    let v ← peekField s n.toNat
    pure { s with res := BitVec.ofNat 32 v }) := by
  rw [exec, execBspeek, widthOk, decide_eq_true h, legal_true, ok_bind]

theorem exec_bswr_of_width (h : n.toNat ≤ 32) :
    exec (.bswr n) s = runCommand s (writeBits s (msbBits n.toNat s.opr.toNat)) := by
  rw [exec, execBswr, widthOk, decide_eq_true h, legal_true, ok_bind]

theorem legal_of_wide (h : 32 < n.toNat) : legal (widthOk n) s = .error (.raise .illegalCommand s.bitpos.toNat) := by
  rw [widthOk, decide_eq_false (by omega), legal_false, here]

/-- A fixed-width read that stops, stops both commands. -/
theorem exec_of_peekField_error {x : Stop} (h : n.toNat ≤ 32) (hx : peekField s n.toNat = .error x) :
    exec (.bsrd n) s = runCommand s (.error x) ∧ exec (.bspeek n) s = runCommand s (.error x) := by
  rw [exec_bsrd_of_width h, exec_bspeek_of_width h, hx, error_bind, error_bind]
  exact ⟨rfl, rfl⟩

theorem exec_bsrd_of_holds {code : List Bool} (h : n.toNat ≤ 32) (hcode : code.length = n.toNat)
    (hlen : s.bitpos.toNat + n.toNat ≤ s.bitlen.toNat) (hold : s.streamHolds s.bitpos.toNat code) :
    exec (.bsrd n) s = .next { s with res := BitVec.ofNat 32 (bitsValue code), bitpos := s.bitpos + n.setWidth 32,
                                      busy := false, done := true } := by
  have hpos : BitVec.ofNat 32 (here s + n.toNat) = s.bitpos + n.setWidth 32 := by
    apply BitVec.eq_of_toNat_eq
    simp [here]
  rw [exec_bsrd_of_width h, hpos, ← hcode, peekField_of_holds hold (hcode ▸ hlen)]
  rfl

theorem exec_bspeek_of_holds {code : List Bool} (h : n.toNat ≤ 32) (hcode : code.length = n.toNat)
    (hlen : s.bitpos.toNat + n.toNat ≤ s.bitlen.toNat) (hold : s.streamHolds s.bitpos.toNat code) :
    exec (.bspeek n) s = .next { s with res := BitVec.ofNat 32 (bitsValue code), busy := false, done := true } := by
  rw [exec_bspeek_of_width h, ← hcode, peekField_of_holds hold (hcode ▸ hlen)]
  rfl

end

/-- Settles O30: the width check, the limit check and the reads of the bits are the four ways both commands can end. -/
theorem fixedWidthRead : Obligations.FixedWidthRead := by
  intro s n
  refine ⟨fun hwide => ?illegal, fun hn hend => ?exhausted, fun hn hlen code hcode hold => ?value,
    fun hn hlen hbit => ?unwritten⟩
  case illegal =>
    rw [exec, exec, execBsrd, execBspeek, legal_of_wide hwide, error_bind, error_bind]
    exact ⟨rfl, rfl⟩
  case exhausted =>
    exact exec_of_peekField_error hn (x := .raise .bitstreamExhausted _) (by
      rw [peekField, here, needBits_of_not (by omega), error_bind])
  case value =>
    have hvalue : bitsValue code < 2 ^ n.toNat := hcode ▸ bitsValue_lt code
    refine ⟨BitVec.ofNat 32 (bitsValue code), fun i hi => ?_, fun i hi => ?_, exec_bsrd_of_holds hn hcode hlen hold,
      exec_bspeek_of_holds hn hcode hlen hold⟩
    · rw [BitVec.getLsbD_ofNat, decide_eq_true (by omega), Bool.true_and, ← hcode, testBit_bitsValue code hi]
    · rw [BitVec.getLsbD_ofNat, Nat.testBit_lt_two_pow (hvalue.trans_le (Nat.pow_le_pow_right (by decide) hi)),
        Bool.and_false]
  case unwritten =>
    exact exec_of_peekField_error hn (x := .fault .undefinedRead) (by
      rw [peekField, here, needBits_eq_ok (u := ()).mpr hlen, ok_bind, streamBits_of_unwritten hbit])

section
variable {s : State} {k pos : Nat} {intra : Bool}

theorem exec_bsrdue_of_readUe (h : readUe s (here s) = .ok (k, pos)) :
    exec .bsrdue s = .next (complete { s with res := BitVec.ofNat 32 k, bitpos := BitVec.ofNat 32 pos }) := by
  rw [exec, execBsrdue, h]
  rfl

theorem exec_bsrdse_of_readUe (h : readUe s (here s) = .ok (k, pos)) :
    exec .bsrdse s
      = .next (complete { s with res := BitVec.ofInt 32 (seFromCode k), bitpos := BitVec.ofNat 32 pos }) := by
  rw [exec, execBsrdse, h]
  rfl

theorem exec_bsrdme_of_readUe (h : readUe s (here s) = .ok (k, pos)) (hk : k ≤ 47) :
    exec (.bsrdme intra) s = .next (complete
      { s with res := BitVec.ofNat 32 ((cbpTable intra).getD k 0), bitpos := BitVec.ofNat 32 pos }) := by
  rw [exec, execBsrdme, h, ok_bind]
  dsimp only
  rw [decide_eq_true hk]
  rfl

theorem exec_bsrdme_of_noPattern (h : readUe s (here s) = .ok (k, pos)) (hk : 47 < k) :
    exec (.bsrdme intra) s = .next (errorEnd s .invalidFieldValue s.bitpos.toNat) := by
  rw [exec, execBsrdme, h, ok_bind]
  dsimp only
  rw [decide_eq_false (by omega), require_false, error_bind, runCommand_raise, here]

end

/-- The entry that `BSRDME` answers. -/
theorem cbpTable_getElem? {intra : Bool} {k : Nat} (hk : k ≤ 47) :
    (cbpTable intra)[k]? = some (BitVec.ofNat 32 ((cbpTable intra).getD k 0)).toNat := by
  have hlt : k < (cbpTable intra).length := by rw [length_cbpTable]; omega
  have hentry : (cbpTable intra)[k] ≤ 47 := mem_cbpTable.mp (List.getElem_mem hlt)
  rw [List.getD_eq_getElem _ _ hlt, toNat_ofNat_of_lt (by omega), List.getElem?_eq_getElem hlt]

/-- Settles O31: the three commands read one codeNum and differ in the value they give it. -/
theorem expGolombReadValue : Obligations.ExpGolombReadValue := by
  intro s L x intra hL hx hold hlen
  have hread : readUe s (here s) = .ok (2 ^ L - 1 + x, s.bitpos.toNat + (2 * L + 1)) :=
    readUe_of_codeword hL hx hold hlen
  have hk := codeNum_lt hL hx
  have hpos : (BitVec.ofNat 32 (s.bitpos.toNat + (2 * L + 1))).toNat = s.bitpos.toNat + (2 * L + 1) :=
    toNat_ofNat_of_lt (by omega)
  generalize 2 ^ L - 1 + x = k at hread hk ⊢
  refine ⟨⟨_, exec_bsrdue_of_readUe hread, toNat_ofNat_of_lt (by omega), hpos, rfl, rfl, rfl⟩,
    ⟨_, exec_bsrdse_of_readUe hread, ?signed, hpos, rfl, rfl, rfl⟩,
    fun h47 => ⟨_, exec_bsrdme_of_readUe hread h47, ?pattern, hpos, rfl, rfl, rfl⟩, exec_bsrdme_of_noPattern hread⟩
  case signed =>
    obtain ⟨hlo, hhi⟩ := signedOf_bounds hk
    rw [complete_res, seFromCode_eq_signedOf, toInt_ofInt_of_fits (fitsElement_iff.mpr (by omega))]
  case pattern => rw [patternOf_eq_cbpTable, complete_res, cbpTable_getElem? h47]

/-- Settles O37: the two ways of saying that 17 bits remain agree. -/
theorem bsmoreNeedsSeventeenBits : Obligations.BsmoreNeedsSeventeenBits := fun _ =>
  ⟨_, rfl, if_congr (by omega) rfl rfl, rfl, rfl, rfl⟩

/-! What a write command leaves. -/

/-- The positions of the buffer are 32-bit numbers (00_scope.md R7). -/
theorem bufferBits_lt {s : State} (hwf : s.params.wf = true) : bufferBits s < 2 ^ 32 := by
  simp only [Params.wf, Bool.and_eq_true, decide_eq_true_eq] at hwf
  rw [bufferBits]
  omega

theorem streamWritten_of_fits {s : State} {code : List Bool} (hwf : s.params.wf = true)
    (hfit : s.bitpos.toNat + code.length ≤ bufferBits s) : streamWritten s (complete (putBits s code)) code := by
  have hbuffer := bufferBits_lt hwf
  refine ⟨fun i hi => ?bits, fun k hk => ?otherBits, toNat_ofNat_of_lt ?bitpos,
    toNat_ofNat_of_lt ?bitlen, rfl, rfl, rfl⟩
  case bits =>
    rw [complete_bsb, cellRead_putBits, dif_pos (by rw [here]; omega)]
    simp [here]
  case otherBits => rw [complete_bsb, cellRead_putBits, dif_neg (by rw [here]; omega)]
  case bitpos => rw [here]; omega
  case bitlen =>
    have := s.bitlen.isLt
    rw [here]
    omega

/-- A command that is a write of `code` writes it where it fits, and else raises `BitstreamExhausted`
(40_bitstream.md R220). -/
theorem writes_or_exhausts {s : State} {i : Instr} {code : List Bool} {n : Nat} (hwf : s.params.wf = true)
    (hi : exec i s = runCommand s (writeBits s code)) (hn : code.length = n) :
    (s.bitpos.toNat + n ≤ 8 * s.params.bsbBytes → ∃ t, exec i s = .next t ∧ streamWritten s t code) ∧
    (8 * s.params.bsbBytes < s.bitpos.toNat + n →
      exec i s = .next (errorEnd s .bitstreamExhausted s.bitpos.toNat)) := by
  subst hn
  refine ⟨fun hfit => ⟨_, ?_, streamWritten_of_fits hwf hfit⟩, fun hfull => ?_⟩
  · rw [hi, writeBits_eq_ok.mpr ⟨hfit, rfl⟩, runCommand_ok]
  · rw [hi, writeBits_of_not (Nat.not_le.mpr hfull), runCommand_raise, here]

/-- Settles O33: a legal width makes the command a write of the low bits of `OPR`. -/
theorem bswrWritesTheField : Obligations.BswrWritesTheField := by
  intro s n hwf
  refine ⟨fun hwide => ?_, fun hn => ?_, fun hn => ?_⟩
  · rw [exec, execBswr, legal_of_wide hwide, error_bind, runCommand_raise]
  · exact (writes_or_exhausts hwf (exec_bswr_of_width hn) (length_msbBits _ _)).2
  · exact (writes_or_exhausts hwf (exec_bswr_of_width hn) (length_msbBits _ _)).1

/-! The Exp-Golomb writes: the check of the value, then a write of its codeword. -/

section
variable {s : State} {L x : Nat}

theorem exec_bswrue_of_codeNum (hx : x < 2 ^ L) (hk : s.opr.toNat + 1 = 2 ^ L + x) (hL : L ≤ 31) :
    exec .bswrue s = runCommand s (writeBits s (expGolomb L x)) := by
  have hlt := codeNum_lt hL hx
  rw [exec, execBswrue, decide_eq_true (by omega), require_true, ok_bind, ueCode_eq_expGolomb hx hk]

theorem exec_bswrse_of_codeNum (hx : x < 2 ^ L) (hk : s.opr.toInt = signedOf (2 ^ L + x - 1)) (hL : L ≤ 31) :
    exec .bswrse s = runCommand s (writeBits s (expGolomb L x)) := by
  have hpow : 0 < 2 ^ L := Nat.two_pow_pos L
  have hlt := codeNum_lt hL hx
  obtain ⟨hlo, -⟩ := signedOf_bounds (k := 2 ^ L + x - 1) (by omega)
  rw [exec, execBswrse, decide_eq_true (by omega), require_true, ok_bind, hk, seToCode_signedOf,
    ueCode_eq_expGolomb hx (by omega)]

theorem exec_bswrme_of_codeNum {intra : Bool} (hx : x < 2 ^ L)
    (hk : (patternOf intra)[2 ^ L + x - 1]? = some s.opr.toNat) :
    exec (.bswrme intra) s = runCommand s (writeBits s (expGolomb L x)) := by
  have hpow : 0 < 2 ^ L := Nat.two_pow_pos L
  rw [patternOf_eq_cbpTable] at hk
  have h47 : s.opr.toNat ≤ 47 := mem_cbpTable.mp (List.mem_of_getElem? hk)
  rw [exec, execBswrme, decide_eq_true h47, require_true, ok_bind, idxOf_cbpTable hk,
    ueCode_eq_expGolomb hx (by omega)]

end

/-- Settles O34: a value with a codeNum makes the command a write of its codeword; the others fail the check. -/
theorem expGolombWrites : Obligations.ExpGolombWrites := by
  intro s L x intra hwf hx
  have hlen := length_expGolomb L x
  refine ⟨fun hk hL => writes_or_exhausts hwf (exec_bswrue_of_codeNum hx hk hL) hlen, fun hopr => ?noUnsigned,
    fun hk hL => writes_or_exhausts hwf (exec_bswrse_of_codeNum hx hk hL) hlen, fun hopr => ?noSigned,
    fun hk => writes_or_exhausts hwf (exec_bswrme_of_codeNum hx hk) hlen, fun hopr => ?noPattern⟩
  case noUnsigned => rw [exec, execBswrue, hopr]; rfl
  case noSigned => rw [exec, execBswrse, hopr]; rfl
  case noPattern => rw [exec, execBswrme, decide_eq_false (by omega)]; rfl

/-! Alignment (40_bitstream.md R230, R231). -/

theorem toBoundary_eq {pos a : Nat} (ha : a < 8) (h : (pos + a) % 8 = 0) : toBoundary pos = a := by
  rw [toBoundary]
  omega

theorem exec_bsalign_skip_of_le {s : State} {a : Nat} (hto : toBoundary (here s) = a)
    (hlen : s.bitpos.toNat + a ≤ s.bitlen.toNat) : exec (.bsalign false) s
      = .next (complete { s with bitpos := BitVec.ofNat 32 (s.bitpos.toNat + a) }) := by
  rw [exec, execBsalign, if_neg Bool.false_ne_true, hto, here, needBits_eq_ok (u := ()).mpr hlen]
  rfl

theorem exec_bsalign_skip_of_lt {s : State} {a : Nat} (hto : toBoundary (here s) = a)
    (hend : s.bitlen.toNat < s.bitpos.toNat + a) :
    exec (.bsalign false) s = .next (errorEnd s .bitstreamExhausted s.bitpos.toNat) := by
  rw [exec, execBsalign, if_neg Bool.false_ne_true, hto, here, needBits_of_not (by omega), error_bind, runCommand_raise]

theorem exec_bsalign_fill {s : State} {a : Nat} (hto : toBoundary (here s) = a) :
    exec (.bsalign true) s = .next (complete (putBits s (List.replicate a false))) := by
  rw [exec, execBsalign, if_pos rfl, hto, pure_eq_ok, runCommand_ok]

theorem exec_bstrail_eq {s : State} {a : Nat} (hto : toBoundary (here s + 1) = a) :
    exec .bstrail s = runCommand s (writeBits s (true :: List.replicate a false)) := by
  rw [exec, execBstrail, hto]

/-- Settles O36: the zeros to the next boundary are skipped or written, after a 1 for `BSTRAIL`. -/
theorem alignmentCommands : Obligations.AlignmentCommands := by
  intro s a hwf ha
  refine ⟨fun halign => ?align, fun halign => ?trail⟩
  case align =>
    have hto : toBoundary (here s) = a := toBoundary_eq ha halign
    refine ⟨fun hlen => ⟨_, exec_bsalign_skip_of_le hto hlen, toNat_ofNat_of_lt (by omega), rfl, rfl, rfl⟩,
      exec_bsalign_skip_of_lt hto, fun ⟨hcursor, _⟩ => ⟨_, exec_bsalign_fill hto, streamWritten_of_fits hwf ?_⟩⟩
    rw [List.length_replicate, ← hto]
    exact here_add_toBoundary_le hcursor
  case trail =>
    have := writes_or_exhausts hwf (exec_bstrail_eq (toBoundary_eq ha halign)) (n := 1 + a) (by simp [Nat.add_comm])
    rwa [← Nat.add_assoc] at this

/-! A write, then the read of its kind (40_bitstream.md R221 .. R235). -/

/-- A write command that completed passed its check and wrote its code. -/
theorem streamWritten_of_done {s t : State} {ok : Bool} {e : ErrCode} {info : Nat} {code : List Bool}
    (hwf : s.params.wf = true) (hdone : t.done = true)
    (h : runCommand s (require ok e info >>= fun _ => writeBits s code) = .next t) :
    ok = true ∧ streamWritten s t code := by
  obtain ⟨u, hu, rfl⟩ | ⟨e, info, -, rfl⟩ := runCommand_eq_next.mp h
  · obtain ⟨_, hok, hu⟩ := bind_eq_ok.mp hu
    obtain ⟨hfit, rfl⟩ := writeBits_eq_ok.mp hu
    exact ⟨require_eq_ok.mp hok, streamWritten_of_fits hwf hfit⟩
  · exact absurd hdone Bool.false_ne_true

/-- The state after a write, with the cursor back at the start, holds the code there, before `BITLEN`. -/
theorem rewound_holds {s t : State} {code : List Bool} (h : streamWritten s t code) :
    ({ t with bitpos := s.bitpos } : State).streamHolds s.bitpos.toNat code ∧
    s.bitpos.toNat + code.length ≤ t.bitlen.toNat ∧ t.bitpos.toNat = s.bitpos.toNat + code.length := by
  obtain ⟨hold, -, hpos, hlen, -⟩ := h
  exact ⟨hold, by omega, hpos⟩

/-- The reads of a codeword that has just been written. -/
theorem reads_written_codeword {s t : State} {L x : Nat} (intra : Bool) (hL : L ≤ 31) (hx : x < 2 ^ L)
    (h : streamWritten s t (expGolomb L x)) :
    (∃ u, exec .bsrdue { t with bitpos := s.bitpos } = .next u ∧ u.done = true ∧ u.res.toNat = 2 ^ L - 1 + x ∧
      u.bitpos = t.bitpos) ∧
    (∃ u, exec .bsrdse { t with bitpos := s.bitpos } = .next u ∧ u.done = true ∧
      u.res.toInt = signedOf (2 ^ L - 1 + x) ∧ u.bitpos = t.bitpos) ∧
    (2 ^ L - 1 + x ≤ 47 → ∃ u, exec (.bsrdme intra) { t with bitpos := s.bitpos } = .next u ∧ u.done = true ∧
      (patternOf intra)[2 ^ L - 1 + x]? = some u.res.toNat ∧ u.bitpos = t.bitpos) := by
  obtain ⟨hold, hlen, hpos⟩ := rewound_holds h
  rw [length_expGolomb] at hlen hpos
  have hback : ∀ u : State, u.bitpos.toNat = s.bitpos.toNat + (2 * L + 1) → u.bitpos = t.bitpos :=
    fun u hu => BitVec.eq_of_toNat_eq (hu.trans hpos.symm)
  obtain ⟨⟨u, hue, hres, hend, -, hdone, -⟩, ⟨v, hse, hsigned, hvend, -, hvdone, -⟩, hme, -⟩ :=
    expGolombReadValue { t with bitpos := s.bitpos } L x intra hL hx hold hlen
  refine ⟨⟨u, hue, hdone, hres, hback u hend⟩, ⟨v, hse, hvdone, hsigned, hback v hvend⟩, fun h47 => ?_⟩
  obtain ⟨w, hw, hpattern, hwend, -, hwdone, -⟩ := hme h47
  exact ⟨w, hw, hwdone, hpattern, hback w hwend⟩

/-- Settles O35: each write leaves its code at the start, where the read of the same kind finds the value again. -/
theorem streamRoundTrip : Obligations.StreamRoundTrip := by
  intro s t n intra hwf hdone
  refine ⟨fun h => ?unsigned, fun h => ?signed, fun h => ?pattern, fun h => ?field⟩
  case unsigned =>
    obtain ⟨hopr, hcode⟩ := streamWritten_of_done hwf hdone h
    have hopr := of_decide_eq_true hopr
    obtain ⟨L, x, hL, hx, hk⟩ := exists_codeword (k := s.opr.toNat) (by omega)
    rw [ueCode_eq_expGolomb hx hk] at hcode
    obtain ⟨⟨u, hu, hudone, hres, hpos⟩, -⟩ := reads_written_codeword intra hL hx hcode
    exact ⟨u, hu, hudone, BitVec.eq_of_toNat_eq (by omega), hpos⟩
  case signed =>
    obtain ⟨hopr, hcode⟩ := streamWritten_of_done hwf hdone h
    have hopr := of_decide_eq_true hopr
    have hlo := BitVec.le_toInt s.opr
    have hhi := BitVec.toInt_lt (x := s.opr)
    obtain ⟨L, x, hL, hx, hk⟩ := exists_codeword (seToCode_lt (v := s.opr.toInt) (by omega) (by omega))
    rw [ueCode_eq_expGolomb hx hk] at hcode
    obtain ⟨-, ⟨u, hu, hudone, hres, hpos⟩, -⟩ := reads_written_codeword intra hL hx hcode
    refine ⟨u, hu, hudone, BitVec.eq_of_toInt_eq ?_, hpos⟩
    rw [hres, show 2 ^ L - 1 + x = seToCode s.opr.toInt by omega, signedOf_seToCode]
  case pattern =>
    obtain ⟨hopr, hcode⟩ := streamWritten_of_done hwf hdone h
    have htable := cbpTable_idxOf (intra := intra) (of_decide_eq_true hopr)
    have hidx : (cbpTable intra).idxOf s.opr.toNat < 48 := by
      simpa using (List.getElem?_eq_some_iff.mp htable).1
    obtain ⟨L, x, hL, hx, hk⟩ := exists_codeword (k := (cbpTable intra).idxOf s.opr.toNat) (by omega)
    rw [ueCode_eq_expGolomb hx hk] at hcode
    obtain ⟨-, -, hme⟩ := reads_written_codeword intra hL hx hcode
    obtain ⟨u, hu, hudone, hres, hpos⟩ := hme (by omega)
    refine ⟨u, hu, hudone, BitVec.eq_of_toNat_eq ?_, hpos⟩
    rw [patternOf_eq_cbpTable, show 2 ^ L - 1 + x = (cbpTable intra).idxOf s.opr.toNat by omega, htable] at hres
    exact (Option.some.inj hres).symm
  case field =>
    obtain ⟨hwidth, hcode⟩ := streamWritten_of_done hwf hdone h
    have hn : n.toNat ≤ 32 := of_decide_eq_true hwidth
    obtain ⟨hold, hlen, hpos⟩ := rewound_holds hcode
    rw [length_msbBits] at hlen hpos
    refine ⟨_, exec_bsrd_of_holds hn (length_msbBits _ _) hlen hold, rfl, ?_, BitVec.eq_of_toNat_eq ?_⟩
    · rw [bitsValue_msbBits]
      exact toNat_ofNat_of_lt ((Nat.mod_le _ _).trans_lt s.opr.isLt)
    · exact (toNat_add_width (pos := s.bitpos) (by omega)).trans hpos.symm

end Sys2Proof.Machine
end

section
/-! The zig-zag commands (41_zigzag.md R260 .. R265): a slot read and written as the vector of its elements in raster
order, what the two commands store, and that the second undoes the first. -/

namespace Sys2Proof.Machine

/-! The vector view of a slot (10_state.md R73). -/

/-- Element `k` of the matrix in raster order. -/
def vectorView (X : Matrix4) (k : Nat) : Int := X (Fin.ofNat 4 (k / 4)) (Fin.ofNat 4 (k % 4))

/-- The matrix whose elements in raster order are the first 16 of `v`. -/
def matrixView (v : Nat → Int) : Matrix4 := Matrix.of fun r c => v (4 * r.val + c.val)

theorem vectorView_raster (X : Matrix4) (r c : Fin 4) : vectorView X (4 * r.val + c.val) = X r c := by
  have hr : Fin.ofNat 4 ((4 * r.val + c.val) / 4) = r := Fin.ext (by simp only [Fin.val_ofNat]; omega)
  have hc : Fin.ofNat 4 ((4 * r.val + c.val) % 4) = c := Fin.ext (by simp only [Fin.val_ofNat]; omega)
  rw [vectorView, hr, hc]

theorem vectorView_matrixView (v : Nat → Int) {k : Nat} (hk : k < 16) : vectorView (matrixView v) k = v k := by
  rw [vectorView, matrixView, Matrix.of_apply, Fin.val_ofNat, Fin.val_ofNat]
  congr 1
  omega

/-! Reads of elements. -/

section
variable {s : State} {slot : Slot}

theorem readElem_raster_eq_ok {r c : Fin 4} {x : Int} :
    readElem s slot (4 * r.val + c.val) = .ok x ↔ s.elemIs slot r c x := by
  rw [readElem_eq_ok, cbKey, ← Nat.add_assoc]
  rfl

theorem readElem_of_slotIs {X : Matrix4} (h : s.slotIs slot X) {k : Nat} (hk : k < 16) :
    readElem s slot k = .ok (vectorView X k) := by
  have hread := readElem_raster_eq_ok.mpr (h (Fin.ofNat 4 (k / 4)) (Fin.ofNat 4 (k % 4)))
  have hkey : 4 * (Fin.ofNat 4 (k / 4)).val + (Fin.ofNat 4 (k % 4)).val = k := by
    rw [Fin.val_ofNat, Fin.val_ofNat]
    omega
  rwa [hkey] at hread

theorem readEach_readElem_of_unwritten {l : List Nat} (h : ∃ r c, 4 * r.val + c.val ∈ l ∧ s.elemUnwritten slot r c) :
    readEach (readElem s slot) l = .error (.fault .undefinedRead) := by
  obtain ⟨r, c, hmem, hrc⟩ := h
  refine readEach_fault (fun _ _ _ hx => (readElem_eq_error.mp hx).2) ⟨_, hmem, readElem_eq_error.mpr ⟨?_, rfl⟩⟩
  rw [cbKey, ← Nat.add_assoc]
  exact hrc

theorem fitsElement_of_readElem {k : Nat} {x : Int} (h : readElem s slot k = .ok x) : fitsElement x = true := by
  obtain ⟨v, -, rfl⟩ := readElem_eq_ok.mp h
  have hlo := BitVec.le_toInt v
  have hhi := BitVec.toInt_lt (x := v)
  exact fitsElement_iff.mpr (by omega)

end

/-! Writes of a slot. -/

theorem fitsElement_getD {l : List Int} (h : ∀ x ∈ l, fitsElement x = true) (k : Nat) :
    fitsElement (l.getD k 0) = true := by
  by_cases hk : k < l.length
  · rw [List.getD_eq_getElem _ _ hk]
    exact h _ (List.getElem_mem hk)
  · rw [List.getD_eq_default _ _ (by omega)]
    rfl

/-- A command that writes a block whose elements fit, and completes. -/
theorem slotStored_writeSlot (s : State) (d : Slot) {b : Block} (h : ∀ x ∈ b, fitsElement x = true) :
    slotStored s (complete (writeSlot s d b)) d (matrixView fun k => b.getD k 0) := by
  refine ⟨fun r c => ?elements, fun k hk => ?frame, complete_busy _, complete_done _,
    by simp only [complete, writeSlot]⟩
  case elements =>
    refine ⟨_, ?_, toInt_ofInt_of_fits (fitsElement_getD h (4 * r.val + c.val))⟩
    rw [complete_cb, cellRead_writeSlot, if_pos (by omega), Nat.add_assoc, Nat.add_sub_cancel_left]
    rfl
  case frame => rw [complete_cb, cellRead_writeSlot, if_neg (by omega)]

/-! The scans. -/

theorem length_scanOf_le (flag : Bool) : (scanOf flag).length ≤ 16 := by cases flag <;> decide

theorem scanOf_lt {flag : Bool} {k : Nat} : k ∈ scanOf flag → k < 16 := by
  cases flag
  · exact (by decide : ∀ k ∈ zigzag, k < 16) k
  · exact (by decide : ∀ k ∈ zigzag2, k < 16) k

theorem mem_scanOf_false (r c : Fin 4) : 4 * r.val + c.val ∈ scanOf false := by
  revert r c
  decide

theorem mem_scanOf_true {r c : Fin 4} : 4 * r.val + c.val ∈ scanOf true ↔ r.val < 2 ∧ c.val < 2 := by
  revert r c
  decide

/-- The model's scan is the table of R260 in raster indices. -/
theorem scanOf_false : scanOf false = scanOrder.map fun p => 4 * p.1.val + p.2.val := by decide

/-- The scan index of the `k`-th position of the table is `k`. -/
theorem idxOf_scanOrder (r c : Fin 4) :
    (scanOf false).idxOf (4 * (scanOrder.getD (4 * r.val + c.val) (0, 0)).1.val
      + (scanOrder.getD (4 * r.val + c.val) (0, 0)).2.val) = 4 * r.val + c.val := by
  revert r c
  decide

theorem getD_unscan (scan : List Nat) (values : List Int) {j : Nat} (hj : j < 16) :
    (unscan scan values).getD j 0 = if j ∈ scan then values.getD (scan.idxOf j) 0 else 0 := by
  simp [unscan, List.getD, hj]

theorem fitsElement_unscan {scan : List Nat} {values : List Int} (h : ∀ x ∈ values, fitsElement x = true) :
    ∀ x ∈ unscan scan values, fitsElement x = true := by
  intro x hx
  obtain ⟨j, -, rfl⟩ := List.mem_map.mp hx
  split
  · exact fitsElement_getD h _
  · rfl

/-! What the two commands store. -/

/-- The sequence that `ZZFWD` makes of a block: the elements at the scan positions, then zeros. -/
def scanned (flag : Bool) (X : Matrix4) : Matrix4 :=
  matrixView fun k => ((scanOf flag).map (vectorView X)).getD k 0

/-- The block that `ZZINV` makes of a sequence: the `k`-th element at the `k`-th scan position, zeros elsewhere. -/
def unscanned (flag : Bool) (q : Matrix4) : Matrix4 :=
  matrixView fun j => if j ∈ scanOf flag then vectorView q ((scanOf flag).idxOf j) else 0

section
variable {s : State} {src : Slot} {flag : Bool} {X : Matrix4}

/-- Reads of elements of a block: the values, each of which fits a slot. -/
theorem readEach_readElem {l : List Nat} (h : ∀ k ∈ l, readElem s src k = .ok (vectorView X k)) :
    readEach (readElem s src) l = .ok (l.map (vectorView X)) ∧
    ∀ x ∈ l.map (vectorView X), fitsElement x = true := by
  refine ⟨readEach_of_forall h, fun x hx => ?_⟩
  obtain ⟨k, hk, rfl⟩ := List.mem_map.mp hx
  exact fitsElement_of_readElem (h k hk)

theorem exec_zzfwd (d : Slot) (h : ∀ k ∈ scanOf flag, readElem s src k = .ok (vectorView X k)) :
    ∃ t, exec (.zzfwd d src flag) s = .next t ∧ slotStored s t d (scanned flag X) := by
  obtain ⟨hread, hfits⟩ := readEach_readElem h
  refine ⟨_, ?_, slotStored_writeSlot s d hfits⟩
  rw [exec, execZzfwd, hread, ok_bind, pure_eq_ok, runCommand_ok]

theorem exec_zzinv (d : Slot) (h : ∀ k < (scanOf flag).length, readElem s src k = .ok (vectorView X k)) :
    ∃ t, exec (.zzinv d src flag) s = .next t ∧ slotStored s t d (unscanned flag X) := by
  obtain ⟨hread, hfits⟩ := readEach_readElem fun k hk => h k (List.mem_range.mp hk)
  have hblock : unscanned flag X = matrixView fun j =>
      (unscan (scanOf flag) ((List.range (scanOf flag).length).map (vectorView X))).getD j 0 := by
    ext r c
    simp only [unscanned, matrixView, Matrix.of_apply]
    rw [getD_unscan _ _ (by omega)]
    refine ite_congr rfl (fun hmem => ?_) fun _ => rfl
    have hidx := List.idxOf_lt_length_iff.mpr hmem
    rw [List.getD_eq_getElem _ _ (by simpa using hidx), List.getElem_map, List.getElem_range]
  refine ⟨_, ?_, hblock ▸ slotStored_writeSlot s d (fitsElement_unscan hfits)⟩
  rw [exec, execZzinv, hread, ok_bind, pure_eq_ok, runCommand_ok]

theorem exec_zzfwd_of_unwritten (d : Slot)
    (h : ∃ r c, 4 * r.val + c.val ∈ scanOf flag ∧ s.elemUnwritten src r c) :
    exec (.zzfwd d src flag) s = .fault .undefinedRead := by
  rw [exec, execZzfwd, readEach_readElem_of_unwritten h, error_bind, runCommand_fault]

theorem exec_zzinv_of_unwritten (d : Slot)
    (h : ∃ r c, 4 * r.val + c.val < (scanOf flag).length ∧ s.elemUnwritten src r c) :
    exec (.zzinv d src flag) s = .fault .undefinedRead := by
  obtain ⟨r, c, hlt, hrc⟩ := h
  rw [exec, execZzinv, readEach_readElem_of_unwritten ⟨r, c, List.mem_range.mpr hlt, hrc⟩, error_bind, runCommand_fault]

end

/-! The stored matrices as R262 and R263 write them. -/

theorem scanned_false (X : Matrix4) :
    scanned false X = Matrix.of fun r c =>
      X (scanOrder.getD (4 * r.val + c.val) (0, 0)).1 (scanOrder.getD (4 * r.val + c.val) (0, 0)).2 := by
  ext r c
  have hlt : 4 * r.val + c.val < scanOrder.length := by
    rw [show scanOrder.length = 16 from rfl]
    omega
  simp only [scanned, matrixView, Matrix.of_apply, scanOf_false, List.map_map]
  rw [List.getD_eq_getElem _ _ (by simpa using hlt), List.getElem_map, List.getD_eq_getElem _ _ hlt,
    Function.comp_apply, vectorView_raster]

theorem scanned_true (X : Matrix4) :
    scanned true X = Matrix.of fun r c => if r = 0 then ![X 0 0, X 0 1, X 1 0, X 1 1] c else 0 := by
  ext r c
  simp only [scanned, matrixView, Matrix.of_apply]
  split
  case isTrue hr =>
    subst hr
    fin_cases c <;> rfl
  case isFalse hr =>
    refine List.getD_eq_default _ _ ?_
    rw [List.length_map, show (scanOf true).length = 4 from rfl]
    omega

theorem unscanned_false_scanOrder (q : Matrix4) (r c : Fin 4) :
    unscanned false q (scanOrder.getD (4 * r.val + c.val) (0, 0)).1 (scanOrder.getD (4 * r.val + c.val) (0, 0)).2
      = q r c := by
  simp only [unscanned, matrixView, Matrix.of_apply]
  rw [if_pos (mem_scanOf_false _ _), idxOf_scanOrder, vectorView_raster]

theorem unscanned_true (q : Matrix4) :
    unscanned true q = !![q 0 0, q 0 1, 0, 0; q 0 2, q 0 3, 0, 0; 0, 0, 0, 0; 0, 0, 0, 0] := by
  ext r c
  fin_cases r <;> fin_cases c <;> rfl

/-- Scanned and put back, an element at a scan position returns to its place (R265). -/
theorem unscanned_scanned (flag : Bool) (M : Matrix4) :
    unscanned flag (scanned flag M)
      = Matrix.of fun r c => if 4 * r.val + c.val ∈ scanOf flag then M r c else 0 := by
  ext r c
  simp only [unscanned, matrixView, Matrix.of_apply]
  refine ite_congr rfl (fun hmem => ?_) fun _ => rfl
  have hidx := List.idxOf_lt_length_iff.mpr hmem
  rw [scanned, vectorView_matrixView _ (hidx.trans_le (length_scanOf_le flag)),
    List.getD_eq_getElem _ _ (by simpa using hidx), List.getElem_map, List.getElem_idxOf, vectorView_raster]

/-- `ZZFWD`, then `ZZINV` on its result, for either flag. -/
theorem exec_zzfwd_zzinv {s : State} {src : Slot} {M : Matrix4} (mid d : Slot) (flag : Bool) (h : s.slotIs src M) :
    ∃ t u, exec (.zzfwd mid src flag) s = .next t ∧ exec (.zzinv d mid flag) t = .next u ∧
      u.slotIs d (Matrix.of fun r c => if 4 * r.val + c.val ∈ scanOf flag then M r c else 0) := by
  obtain ⟨t, ht, hmid, -⟩ := exec_zzfwd (flag := flag) mid fun k hk => readElem_of_slotIs h (scanOf_lt hk)
  obtain ⟨u, hu, hd, -⟩ := exec_zzinv (flag := flag) d fun k hk =>
    readElem_of_slotIs hmid (hk.trans_le (length_scanOf_le flag))
  exact ⟨t, u, ht, hu, unscanned_scanned flag M ▸ hd⟩

/-- Settles O27: the reads of the scan positions all answer, or one faults. -/
theorem zzfwdWritesScanOrder : Obligations.ZzfwdWritesScanOrder := by
  intro s d src X
  refine ⟨fun hsrc => ?whole, fun h00 h01 h10 h11 => ?twoByTwo, fun ⟨r, c, hrc⟩ => ?wholeFault,
    fun ⟨r, c, hr, hc, hrc⟩ => ?twoByTwoFault⟩
  case whole => exact scanned_false X ▸ exec_zzfwd d fun k hk => readElem_of_slotIs hsrc (scanOf_lt hk)
  case twoByTwo =>
    refine scanned_true X ▸ exec_zzfwd d ?_
    have h0 := readElem_raster_eq_ok.mpr h00
    have h1 := readElem_raster_eq_ok.mpr h01
    have h4 := readElem_raster_eq_ok.mpr h10
    have h5 := readElem_raster_eq_ok.mpr h11
    exact List.forall_mem_cons.mpr ⟨h0, List.forall_mem_cons.mpr ⟨h1, List.forall_mem_cons.mpr ⟨h4,
      List.forall_mem_singleton.mpr h5⟩⟩⟩
  case wholeFault => exact exec_zzfwd_of_unwritten d ⟨r, c, mem_scanOf_false r c, hrc⟩
  case twoByTwoFault => exact exec_zzfwd_of_unwritten d ⟨r, c, mem_scanOf_true.mpr ⟨hr, hc⟩, hrc⟩

/-- Settles O28: the reads of the sequence all answer, or one faults. -/
theorem zzinvRestoresRasterOrder : Obligations.ZzinvRestoresRasterOrder := by
  intro s d src q
  have hwhole : (scanOf false).length = 16 := rfl
  have hfour : (scanOf true).length = 4 := rfl
  refine ⟨fun hsrc => ?whole, fun hsrc => ?twoByTwo, fun ⟨r, c, hrc⟩ => ?wholeFault, fun ⟨c, hc⟩ => ?twoByTwoFault⟩
  case whole =>
    obtain ⟨t, ht, hstored⟩ := exec_zzinv (flag := false) d fun k hk => readElem_of_slotIs hsrc hk
    exact ⟨t, _, ht, hstored, unscanned_false_scanOrder q⟩
  case twoByTwo =>
    refine unscanned_true q ▸ exec_zzinv d fun k hk => ?_
    have hread := readElem_raster_eq_ok.mpr (hsrc ⟨k, hk⟩)
    rwa [← vectorView_raster q, show 4 * (0 : Fin 4).val + k = k by simp] at hread
  case wholeFault => exact exec_zzinv_of_unwritten d ⟨r, c, by omega, hrc⟩
  case twoByTwoFault => exact exec_zzinv_of_unwritten d ⟨0, c, by simp [hfour], hc⟩

/-- Settles O29: what returns to its place is every element, and with `2x2` the elements of the 2×2 block. -/
theorem zigzagInvolution : Obligations.ZigzagInvolution := by
  intro s src mid d M hsrc
  refine ⟨?whole, ?twoByTwo⟩
  case whole =>
    have hM : (Matrix.of fun r c => if 4 * r.val + c.val ∈ scanOf false then M r c else 0) = M := by
      ext r c
      exact if_pos (mem_scanOf_false r c)
    exact hM ▸ exec_zzfwd_zzinv mid d false hsrc
  case twoByTwo => simpa only [mem_scanOf_true] using exec_zzfwd_zzinv mid d true hsrc

end Sys2Proof.Machine
end

section
/-! The nC context grid (42_cavlc.md R281 .. R284, R320, R321): what a read of a neighbour answers, the context of a CAVLC
command, and the cells that `NCSET` writes. -/

namespace Sys2Proof.Machine

/-! The picture (60_exceptions.md R571). -/

theorem inPicture_iff {s : State} : s.inPicture ↔ picdimOk s = true ∧ mbposOk s = true := by
  simp only [State.inPicture, picdimOk, mbposOk, Bool.and_eq_true, decide_eq_true_eq, and_assoc]

theorem checkPicture_of_inPicture {s : State} (h : s.inPicture) : checkPicture s = .ok () :=
  checkPicture_eq_ok.mpr (inPicture_iff.mp h)

theorem lt_planeBlocks_of_blockInPlane {p : Plane} {bx byy : Two} (h : blockInPlane p bx byy = true) :
    bx.toNat < planeBlocks p ∧ byy.toNat < planeBlocks p := by
  cases p <;> simp only [blockInPlane, Bool.and_eq_true, decide_eq_true_eq, planeBlocks] at h ⊢ <;> omega

/-! Reads of the grid (42_cavlc.md R282). -/

section
variable {s : State} {p : Plane} {gx gy : Nat}

theorem readNc_of_valid {c : NcCell} (h : cellRead s.ncg (ncKey p gx gy) = some c) (hc : c.valid = true) :
    readNc s p gx gy = .ok c.tc := by
  simp only [readNc, h, hc, if_true, pure_eq_ok]

/-- A cell that is not listed is not valid either. -/
theorem readNc_of_missing (h : ∀ c, cellRead s.ncg (ncKey p gx gy) = some c → c.valid = false) :
    readNc s p gx gy = .error (.raise .contextNotWritten (here s)) := by
  unfold readNc
  split
  case h_1 c hc => rw [h c hc, if_neg Bool.false_ne_true, raise_eq]
  case h_2 => rfl

/-- The read of a neighbour, which lies inside the picture where its coordinate `edge` is not 0. -/
def readNeighbour (s : State) (p : Plane) (edge gx gy : Nat) : Cmd (Option Nat) :=
  if edge = 0 then pure none else do
    let n ← readNc s p gx gy
    pure (some n)

theorem neighbourA_eq : neighbourA s p gx gy = readNeighbour s p gx (gx - 1) gy := rfl

theorem neighbourB_eq : neighbourB s p gx gy = readNeighbour s p gy gx (gy - 1) := rfl

theorem readNeighbour_of_is {edge : Nat} {n : Option Nat} (h : s.neighbourIs p (0 < edge) gx gy n) :
    readNeighbour s p edge gx gy = .ok n := by
  obtain ⟨hinside, houtside⟩ := h
  unfold readNeighbour
  split
  case isTrue hedge => rw [houtside (by omega), pure_eq_ok]
  case isFalse hedge =>
    obtain ⟨c, hc, hvalid, rfl⟩ := hinside (by omega)
    rw [readNc_of_valid hc hvalid, ok_bind, pure_eq_ok]

theorem readNeighbour_of_missing {edge : Nat} (h : s.neighbourMissing p (0 < edge) gx gy) :
    readNeighbour s p edge gx gy = .error (.raise .contextNotWritten (here s)) := by
  obtain ⟨hinside, hcell⟩ := h
  rw [readNeighbour, if_neg (by omega), readNc_of_missing hcell, error_bind]

/-- A neighbour answers, or its read raises `ContextNotWritten`. -/
theorem readNeighbour_cases (s : State) (p : Plane) (edge gx gy : Nat) :
    (∃ n, s.neighbourIs p (0 < edge) gx gy n) ∨ s.neighbourMissing p (0 < edge) gx gy := by
  by_cases hedge : 0 < edge
  · by_cases hcell : ∃ c, cellRead s.ncg (ncKey p gx gy) = some c ∧ c.valid = true
    · obtain ⟨c, hc, hvalid⟩ := hcell
      exact .inl ⟨some c.tc, fun _ => ⟨c, hc, hvalid, rfl⟩, fun h => absurd hedge h⟩
    · refine .inr ⟨hedge, fun c hc => Bool.eq_false_iff.mpr fun hvalid => hcell ⟨c, hc, hvalid⟩⟩
  · exact .inl ⟨none, fun h => absurd h hedge, fun _ => rfl⟩

end

/-! The context (42_cavlc.md R283, R284). -/

/-- The two ways of writing R283 agree where a neighbour outside the picture is none. -/
theorem ncFromNeighbours_eq_contextOf (rule : NcRule) {gx gy : Nat} {nA nB : Option Nat} (hA : ¬0 < gx → nA = none)
    (hB : ¬0 < gy → nB = none) : ncFromNeighbours rule nA nB = contextOf rule gx gy nA nB := by
  cases rule with
  | itu => cases nA <;> cases nB <;> rfl
  | zeroSubst =>
    unfold contextOf
    dsimp only
    split
    case isTrue hcorner => rw [hA (by omega), hB (by omega), ncFromNeighbours]
    case isFalse => cases nA <;> cases nB <;> simp [ncFromNeighbours]

section
variable {s : State} {p : Plane} {bx byy : Two}

theorem gridNc_of_is {n : Nat} (h : s.gridContextIs p bx byy n) : gridNc s p bx.toNat byy.toNat = .ok n := by
  obtain ⟨nA, nB, hA, hB, rfl⟩ := h
  rw [gridNc, neighbourA_eq, readNeighbour_of_is hA, ok_bind, neighbourB_eq, readNeighbour_of_is hB, ok_bind, pure_eq_ok,
    ncFromNeighbours_eq_contextOf s.params.ncRule hA.2 hB.2]

/-- A is read before B, and both raise the same error at `BITPOS`. -/
theorem gridNc_of_missing
    (h : s.neighbourMissing p (0 < cellX s p bx.toNat) (cellX s p bx.toNat - 1) (cellY s p byy.toNat) ∨
      s.neighbourMissing p (0 < cellY s p byy.toNat) (cellX s p bx.toNat) (cellY s p byy.toNat - 1)) :
    gridNc s p bx.toNat byy.toNat = .error (.raise .contextNotWritten (here s)) := by
  rw [gridNc, neighbourA_eq, neighbourB_eq]
  obtain ⟨nA, hA⟩ | hA := readNeighbour_cases s p (cellX s p bx.toNat) (cellX s p bx.toNat - 1) (cellY s p byy.toNat)
  · have hB := h.resolve_left fun ⟨hinside, hcell⟩ => by
      obtain ⟨c, hc, hvalid, -⟩ := hA.1 hinside
      exact absurd hvalid (by rw [hcell c hc]; exact Bool.false_ne_true)
    rw [readNeighbour_of_is hA, ok_bind, readNeighbour_of_missing hB, error_bind]
  · rw [readNeighbour_of_missing hA, error_bind]

/-- nC lies within 0 .. 16, as TotalCoeff does (42_cavlc.md R283). -/
theorem gridContext_le {n : Nat} (hrange : s.contextInRange) (h : s.gridContextIs p bx byy n) : n ≤ 16 := by
  obtain ⟨nA, nB, hA, hB, rfl⟩ := h
  have bound : ∀ {avail : Prop} {gx gy : Nat} {m : Option Nat}, s.neighbourIs p avail gx gy m → ∀ a ∈ m, a ≤ 16 := by
    rintro avail gx gy m ⟨hinside, houtside⟩ a ha
    by_cases hav : avail
    · obtain ⟨c, hc, -, rfl⟩ := hinside hav
      obtain rfl := Option.some.inj ha
      exact hrange _ (mem_of_cellRead hc)
    · rw [houtside hav] at ha
      cases ha
  have ha := bound hA
  have hb := bound hB
  rw [← ncFromNeighbours_eq_contextOf _ hA.2 hB.2]
  unfold ncFromNeighbours
  split
  · exact Nat.zero_le _
  · have := ha _ rfl
    have := hb _ rfl
    omega
  · have := ha _ rfl
    split <;> omega
  · have := hb _ rfl
    split <;> omega

end

section
variable {s : State} {mnc : Mnc} {plane : Option Plane} {ncsel wb : Bool} {bx byy : Two}

theorem usesGrid_eq_true : usesGrid plane ncsel wb = true ↔ (plane ≠ none ∧ ncsel = false) ∨ wb = true := by
  cases plane <;> simp [usesGrid]

/-- The checks of a CAVLC command in their order (42_cavlc.md R310, R316). -/
theorem cavlcContext_eq : cavlcContext mnc plane ncsel bx byy wb s
    = legal (cavlcFieldsOk mnc plane ncsel bx byy wb) s >>= fun _ =>
      (if usesGrid plane ncsel wb then checkPicture s else pure ()) >>= fun _ => ncFor s plane ncsel bx byy := by
  unfold cavlcContext
  cases usesGrid plane ncsel wb <;> rfl

/-- Where the context is ready, every check before the block holds, and nC is found. -/
theorem cavlcContext_of_ready {nC : Int} (h : s.contextReady mnc plane ncsel bx byy wb nC) :
    cavlcContext mnc plane ncsel bx byy wb s = .ok nC := by
  obtain ⟨hfields, hpicture, hnone, hreg, hgrid⟩ := h
  have hcheck : (if usesGrid plane ncsel wb then checkPicture s else pure ()) = .ok () := by
    split
    case isTrue huses => exact checkPicture_of_inPicture (hpicture (usesGrid_eq_true.mp huses))
    case isFalse => rfl
  rw [cavlcContext_eq, hfields, legal_true, ok_bind, hcheck, ok_bind]
  cases plane with
  | none => rw [hnone rfl]; rfl
  | some p =>
    cases ncsel with
    | true => rw [hreg p rfl rfl]; rfl
    | false =>
      obtain ⟨n, hn, rfl⟩ := hgrid p rfl rfl
      rw [ncFor, if_neg Bool.false_ne_true, gridNc_of_is hn, ok_bind, pure_eq_ok]

/-- A context from the grid with a neighbour that is not valid. -/
theorem cavlcContext_of_missing {p : Plane} (hfields : cavlcFieldsOk mnc (some p) false bx byy wb = true)
    (hpicture : s.inPicture) (h : gridNc s p bx.toNat byy.toNat = .error (.raise .contextNotWritten (here s))) :
    cavlcContext mnc (some p) false bx byy wb s = .error (.raise .contextNotWritten (here s)) := by
  rw [cavlcContext_eq, hfields, legal_true, ok_bind, if_pos (usesGrid_eq_true.mpr (.inl ⟨by simp, rfl⟩)),
    checkPicture_of_inPicture hpicture, ok_bind, ncFor, if_neg Bool.false_ne_true, h, error_bind]

/-- `NCGET` reads its own cell or the grid's context, once its checks hold. -/
theorem exec_ncget_of_inPicture {p : Plane} (raw : Bool) (hblock : blockInPlane p bx byy = true)
    (hpicture : s.inPicture) : exec (.ncget (some p) bx byy raw) s = runCommand s (do
      let n ← if raw then readNc s p (cellX s p bx.toNat) (cellY s p byy.toNat) else gridNc s p bx.toNat byy.toNat
      pure { s with res := BitVec.ofNat 32 n }) := by
  rw [exec, execNcget, ncgetFieldsOk, hblock, legal_true, ok_bind, checkPicture_of_inPicture hpicture, ok_bind]

end

/-- Settles O42: A or B is missing, or the cell itself, and no check before its read fails. -/
theorem unwrittenContextIsRejected : Obligations.UnwrittenContextIsRejected := by
  intro s p bx byy i hblock hpicture
  refine ⟨fun hmissing => ?neighbour, fun ⟨_, hcell⟩ => ?own⟩
  case neighbour =>
    have hgrid := gridNc_of_missing hmissing
    refine ⟨fun slot mnc wb hmnc hi => ?cavlc, ?ncget⟩
    case cavlc =>
      have hfields : cavlcFieldsOk mnc (some p) false bx byy wb = true := by simp [cavlcFieldsOk, hmnc, hblock]
      have hcontext := cavlcContext_of_missing hfields hpicture hgrid
      obtain rfl | rfl := hi
      · rw [exec, execCavlcdec, hcontext, error_bind, runCommand_raise, here]
      · rw [exec, execCavlcenc, hcontext, error_bind, runCommand_raise, here]
    case ncget =>
      rw [exec_ncget_of_inPicture _ hblock hpicture, if_neg Bool.false_ne_true, hgrid, error_bind, runCommand_raise, here]
  case own =>
    rw [exec_ncget_of_inPicture _ hblock hpicture, if_pos rfl, readNc_of_missing hcell, error_bind, runCommand_raise, here]

/-- Settles O43: the value that is read is at most 16, so `RES` holds it. -/
theorem ncgetReturnsTheContext : Obligations.NcgetReturnsTheContext := by
  intro s p bx byy hblock hpicture hrange
  refine ⟨fun n hn => ?grid, fun c hc hvalid => ?own⟩
  case grid =>
    have hle := gridContext_le hrange hn
    refine ⟨complete { s with res := BitVec.ofNat 32 n }, ?_, toNat_ofNat_of_lt (by omega), hle, rfl, rfl, rfl⟩
    rw [exec_ncget_of_inPicture _ hblock hpicture, if_neg Bool.false_ne_true, gridNc_of_is hn]
    rfl
  case own =>
    have hle : c.tc ≤ 16 := hrange _ (mem_of_cellRead hc)
    refine ⟨complete { s with res := BitVec.ofNat 32 c.tc }, ?_, toNat_ofNat_of_lt (by omega), rfl, rfl, rfl⟩
    rw [exec_ncget_of_inPicture _ hblock hpicture, if_pos rfl, readNc_of_valid hc hvalid]
    rfl

/-! Writes of the grid (42_cavlc.md R320). -/

/-- `t` is `s` but for the cells of the grid whose key is in `keys`, each of which holds `(1, tc)`. -/
def contextsSet (s : State) (tc : Nat) (keys : Nat → Prop) (t : State) : Prop :=
  (∀ k, keys k → cellRead t.ncg k = some ⟨true, tc⟩) ∧ (∀ k, ¬keys k → cellRead t.ncg k = cellRead s.ncg k) ∧
  { t with ncg := s.ncg } = s

theorem contextsSet_refl (s : State) (tc : Nat) : contextsSet s tc (fun _ => False) s :=
  ⟨fun _ h => h.elim, fun _ _ => rfl, rfl⟩

theorem contextsSet_trans {s t u : State} {tc : Nat} {keys keys' : Nat → Prop} (ht : contextsSet s tc keys t)
    (hu : contextsSet t tc keys' u) : contextsSet s tc (fun k => keys k ∨ keys' k) u := by
  obtain ⟨htset, htkeep, hts⟩ := ht
  obtain ⟨huset, hukeep, hut⟩ := hu
  refine ⟨fun k hk => ?_, fun k hk => ?_, ?_⟩
  · by_cases hk' : keys' k
    · exact huset k hk'
    · rw [hukeep k hk', htset k (hk.resolve_right hk')]
  · rw [hukeep k fun h => hk (.inr h), htkeep k fun h => hk (.inl h)]
  · rw [← hut] at hts
    exact hts

theorem contextsSet_congr {s t : State} {tc : Nat} {keys keys' : Nat → Prop} (ht : contextsSet s tc keys t)
    (h : ∀ k, keys' k ↔ keys k) : contextsSet s tc keys' t := by
  rwa [show keys' = keys from funext fun k => propext (h k)]

/-- The key of the cell of block `(x, y)` of the current macroblock. -/
def blockKey (s : State) (p : Plane) (x y : Nat) : Nat := ncKey p (cellX s p x) (cellY s p y)

theorem contextsSet_putNc (s : State) (p : Plane) (tc x y : Nat) :
    contextsSet s tc (fun k => k = blockKey s p x y) (putNc s p tc x y) := by
  refine ⟨fun k hk => ?_, fun k hk => ?_, by simp only [putNc]⟩
  · rw [putNc_ncg, hk, blockKey, cellRead_cellWrite_self]
  · rw [putNc_ncg, ← blockKey, cellRead_cellWrite_of_ne fun h => hk h.symm]

theorem blockKey_putNc (s : State) (p q : Plane) (tc x y x' y' : Nat) :
    blockKey (putNc s p tc x y) q x' y' = blockKey s q x' y' := by
  simp only [blockKey, cellX, cellY, mbx, mby, putNc_mbpos]

/-- Writing contexts leaves the macroblock where it is. -/
theorem blockKey_of_contextsSet {s t : State} {tc : Nat} {keys : Nat → Prop} (h : contextsSet s tc keys t) (p : Plane)
    (x y : Nat) : blockKey t p x y = blockKey s p x y := by
  obtain ⟨-, -, hs⟩ := h
  rw [← hs]
  rfl

theorem contextsSet_foldl_putNc (p : Plane) (tc : Nat) (x y : Nat → Nat) (ks : List Nat) (s : State) :
    contextsSet s tc (fun k => ∃ i ∈ ks, k = blockKey s p (x i) (y i))
      (ks.foldl (fun t i => putNc t p tc (x i) (y i)) s) := by
  induction ks generalizing s with
  | nil => exact contextsSet_congr (contextsSet_refl s tc) fun k => by simp
  | cons i ks ih =>
    refine contextsSet_congr (contextsSet_trans (contextsSet_putNc s p tc (x i) (y i)) (ih _)) fun k => ?_
    simp only [blockKey_putNc, List.exists_mem_cons_iff]

/-- The blocks of a macroblock in a plane, counted row by row. -/
theorem contextsSet_putNcAll (s : State) (p : Plane) (tc : Nat) :
    contextsSet s tc (fun k => ∃ x y, x < planeBlocks p ∧ y < planeBlocks p ∧ k = blockKey s p x y)
      (putNcAll s p tc) := by
  have hpos : 0 < planeBlocks p := by cases p <;> decide
  refine contextsSet_congr (contextsSet_foldl_putNc p tc _ _ _ s) fun k => ⟨?_, ?_⟩
  · rintro ⟨x, y, hx, hy, rfl⟩
    refine ⟨y * planeBlocks p + x, List.mem_range.mpr ?_, ?_⟩
    · calc y * planeBlocks p + x < (y + 1) * planeBlocks p := by rw [Nat.succ_mul]; omega
        _ ≤ planeBlocks p * planeBlocks p := Nat.mul_le_mul_right _ hy
    · rw [Nat.mul_comm, Nat.mul_add_mod, Nat.mod_eq_of_lt hx, Nat.mul_add_div hpos, Nat.div_eq_of_lt hx, Nat.add_zero]
  · rintro ⟨i, hi, rfl⟩
    exact ⟨_, _, Nat.mod_lt _ hpos, Nat.div_lt_of_lt_mul (List.mem_range.mp hi), rfl⟩

/-- The keys of the cells that `NCSET` names (42_cavlc.md R320). -/
def namedKeys (s : State) (plane : Option Plane) (bx byy : Two) (all : Bool) (k : Nat) : Prop :=
  ∃ p x y, x < planeBlocks p ∧ y < planeBlocks p ∧
    (plane = none ∨ (plane = some p ∧ (all = true ∨ (x = bx.toNat ∧ y = byy.toNat)))) ∧ k = blockKey s p x y

section
variable {s : State} {plane : Option Plane} {bx byy : Two} {all : Bool}

theorem exec_ncset_of_checks (hfields : ncsetFieldsOk plane bx byy all = true) (hpicture : s.inPicture)
    (hreg : s.ncreg.toNat ≤ 16) :
    ∃ u, exec (.ncset plane bx byy all) s = .next (complete u) ∧
      contextsSet s s.ncreg.toNat (namedKeys s plane bx byy all) u := by
  simp only [exec, execNcset, hfields, legal_true, ok_bind, checkPicture_of_inPicture hpicture, decide_eq_true hreg,
    require_true]
  cases plane with
  | none =>
    have hy := contextsSet_putNcAll s .y s.ncreg.toNat
    have hcb := contextsSet_putNcAll (putNcAll s .y s.ncreg.toNat) .cb s.ncreg.toNat
    have hcr := contextsSet_putNcAll (putNcAll (putNcAll s .y s.ncreg.toNat) .cb s.ncreg.toNat) .cr s.ncreg.toNat
    have hycb := contextsSet_trans hy hcb
    refine ⟨_, rfl, contextsSet_congr (contextsSet_trans hycb hcr) fun k => ?_⟩
    simp only [blockKey_of_contextsSet hy, blockKey_of_contextsSet hycb, namedKeys, true_or, true_and]
    constructor
    · rintro ⟨p, h⟩
      cases p
      · exact .inl (.inl h)
      · exact .inl (.inr h)
      · exact .inr h
    · rintro ((h | h) | h) <;> exact ⟨_, h⟩
  | some p =>
    cases all with
    | true =>
      refine ⟨_, rfl, contextsSet_congr (contextsSet_putNcAll s p _) fun k => ?_⟩
      simp [namedKeys]
    | false =>
      have hblock : blockInPlane p bx byy = true := by simpa [ncsetFieldsOk] using hfields
      obtain ⟨hx, hy⟩ := lt_planeBlocks_of_blockInPlane hblock
      refine ⟨_, rfl, contextsSet_congr (contextsSet_putNc s p _ _ _) fun k => ⟨?_, ?_⟩⟩
      · rintro ⟨q, x, y, -, -, h, rfl⟩
        simp only [reduceCtorEq, Option.some.injEq, Bool.false_eq_true, false_or] at h
        obtain ⟨rfl, rfl, rfl⟩ := h
        rfl
      · exact fun h => ⟨p, _, _, hx, hy, .inr ⟨rfl, .inr ⟨rfl, rfl⟩⟩, h⟩

theorem exec_ncset_of_value (hfields : ncsetFieldsOk plane bx byy all = true)
    (h : ¬(s.inPicture ∧ s.ncreg.toNat ≤ 16)) :
    exec (.ncset plane bx byy all) s = .next (errorEnd s .invalidFieldValue s.bitpos.toNat) := by
  simp only [exec, execNcset, hfields, legal_true, ok_bind]
  by_cases hpicture : s.inPicture
  · rw [checkPicture_of_inPicture hpicture, ok_bind, decide_eq_false fun hreg => h ⟨hpicture, hreg⟩, require_false,
      error_bind, runCommand_raise, here]
  · rw [checkPicture_of_not fun hok => hpicture (inPicture_iff.mpr hok), error_bind, runCommand_raise, here]

end

/-- Settles O44: the checks in their order, then one cell, the cells of a plane or those of all three planes. -/
theorem ncsetWritesTheNamedCells : Obligations.NcsetWritesTheNamedCells := by
  intro s plane bx byy all
  refine ⟨fun hfields => ?illegal, exec_ncset_of_value, fun hfields hpicture hreg => ?completes⟩
  case illegal => simp only [exec, execNcset, hfields, legal_false, error_bind, runCommand_raise, here]
  case completes =>
    obtain ⟨u, hu, hset, hkeep, hs⟩ := exec_ncset_of_checks hfields hpicture hreg
    refine ⟨complete u, hu, fun p x y hx hy hnamed => hset _ ⟨p, x, y, hx, hy, hnamed, rfl⟩, fun k hk => hkeep k ?_,
      rfl, rfl, ?_⟩
    · rintro ⟨p, x, y, hx, hy, hnamed, hkey⟩
      exact hk p x y hx hy hnamed hkey
    · calc { complete u with ncg := s.ncg, busy := s.busy, done := s.done }
          = { ({ u with ncg := s.ncg } : State) with busy := s.busy, done := s.done } := rfl
        _ = s := by rw [hs]

end Sys2Proof.Machine
end

section
/-! The VLC tables (42_cavlc.md R285 .. R291, R299 .. R305): what makes a table a code, that the decoder's scan and the
encoder agree on every such table (R319), and that the tables are the printed ones. -/

namespace Sys2Proof.Machine

/-! Tables that are codes. -/

section
variable {α : Type}

/-- The codeword of `e` is the beginning of that of `e'`. -/
def VlcEntry.begins (e e' : VlcEntry α) : Bool := e.len.ble e'.len && e.code.beq (e'.code / 2 ^ (e'.len - e.len))

/-- Every codeword has a length and fits it, no two entries share their value, and no codeword begins another. -/
def isCode (t : List (VlcEntry α)) : Prop :=
  (∀ e ∈ t, 0 < e.len ∧ e.code < 2 ^ e.len) ∧ (t.map VlcEntry.val).Nodup ∧
  t.Pairwise fun e e' => (e.begins e' || e'.begins e) = false

theorem eq_of_val_eq {t : List (VlcEntry α)} (h : isCode t) {e e' : VlcEntry α} (he : e ∈ t) (he' : e' ∈ t)
    (hval : e.val = e'.val) : e = e' :=
  List.inj_on_of_nodup_map h.2.1 he he' hval

theorem eq_of_begins {t : List (VlcEntry α)} (h : isCode t) {e e' : VlcEntry α} (he : e ∈ t) (he' : e' ∈ t)
    (hlen : e.len ≤ e'.len) (hcode : e.code = e'.code / 2 ^ (e'.len - e.len)) : e = e' := by
  have hsymm : Std.Symm fun e e' : VlcEntry α => (e.begins e' || e'.begins e) = false :=
    ⟨fun a b hab => (Bool.or_comm _ _).trans hab⟩
  by_contra hne
  have hclash := h.2.2.forall he he' hne
  have hbegins : e.begins e' = true := by
    rw [VlcEntry.begins, Bool.and_eq_true, Nat.ble_eq, Nat.beq_eq]
    exact ⟨hlen, hcode⟩
  rw [hbegins, Bool.true_or] at hclash
  exact Bool.false_ne_true hclash.symm

/-- The codeword of an entry. -/
def VlcEntry.word (e : VlcEntry α) : List Bool := msbBits e.len e.code

@[simp] theorem VlcEntry.length_word (e : VlcEntry α) : e.word.length = e.len := length_msbBits _ _

theorem len_le_maxLen {t : List (VlcEntry α)} {e : VlcEntry α} (he : e ∈ t) : e.len ≤ maxLen t := by
  induction t with
  | nil => cases he
  | cons x t ih =>
    obtain rfl | he := List.mem_cons.mp he
    · exact Nat.le_max_left _ _
    · exact (ih he).trans (Nat.le_max_right _ _)

theorem vlcFind_eq_some {t : List (VlcEntry α)} {len code : Nat} {v : α} (h : vlcFind t len code = some v) :
    ∃ e ∈ t, e.len = len ∧ e.code = code ∧ e.val = v := by
  obtain ⟨e, he, hv⟩ := Option.map_eq_some_iff.mp h
  have hkey := List.find?_some he
  simp only [Bool.and_eq_true, decide_eq_true_eq] at hkey
  exact ⟨e, List.mem_of_find?_eq_some he, hkey.1, hkey.2, hv⟩

theorem vlcFind_eq_none {t : List (VlcEntry α)} {len code : Nat} (h : ∀ e ∈ t, e.len = len → e.code ≠ code) :
    vlcFind t len code = none := by
  cases hv : vlcFind t len code with
  | none => rfl
  | some v =>
    obtain ⟨e, he, hlen, hcode, -⟩ := vlcFind_eq_some hv
    exact absurd hcode (h e he hlen)

theorem vlcFind_of_mem {t : List (VlcEntry α)} (h : isCode t) {e : VlcEntry α} (he : e ∈ t) :
    vlcFind t e.len e.code = some e.val := by
  cases hv : vlcFind t e.len e.code with
  | none =>
    rw [vlcFind, Option.map_eq_none_iff, List.find?_eq_none] at hv
    exact absurd (hv e he) (by simp)
  | some v =>
    obtain ⟨e', he', hlen, hcode, rfl⟩ := vlcFind_eq_some hv
    rw [eq_of_begins h he' he hlen.le (by rw [hcode, hlen, Nat.sub_self, pow_zero, Nat.div_one])]

/-- The encoder's codeword of a value is that of its entry. -/
theorem vlcCode_eq_some [DecidableEq α] {t : List (VlcEntry α)} (h : isCode t) {v : α} {code : List Bool} :
    vlcCode t v = some code ↔ ∃ e ∈ t, e.val = v ∧ code = e.word := by
  rw [vlcCode, Option.map_eq_some_iff]
  constructor
  · rintro ⟨e, he, rfl⟩
    exact ⟨e, List.mem_of_find?_eq_some he, by simpa using List.find?_some he, rfl⟩
  · rintro ⟨e, he, rfl, rfl⟩
    cases hv : t.find? (fun x => decide (x.val = e.val)) with
    | none => exact absurd (List.find?_eq_none.mp hv e he) (by simp)
    | some e' =>
      have hval : e'.val = e.val := by simpa using List.find?_some hv
      rw [eq_of_val_eq h (List.mem_of_find?_eq_some hv) he hval]
      exact ⟨e, rfl, rfl⟩

theorem vlcCode_eq_none [DecidableEq α] {t : List (VlcEntry α)} {v : α} (h : ∀ e ∈ t, e.val ≠ v) :
    vlcCode t v = none := by
  rw [vlcCode, Option.map_eq_none_iff, List.find?_eq_none]
  exact fun e he => by simpa using h e he

end

/-! The scan for a codeword (42_cavlc.md R286). -/

section
variable {α : Type} {t : List (VlcEntry α)} {s : State} {start : Nat}

theorem streamHolds_nil (s : State) (pos : Nat) : s.streamHolds pos [] := fun _ hi => absurd hi (Nat.not_lt_zero _)

theorem streamHolds_singleton {pos : Nat} {b : Bool} : s.streamHolds pos [b] ↔ cellRead s.bsb pos = some b := by
  constructor
  · exact fun h => h 0 (Nat.zero_lt_one)
  · intro h i hi
    obtain rfl : i = 0 := by simpa using hi
    exact h

theorem msbBits_bitsValue (bs : List Bool) : msbBits bs.length (bitsValue bs) = bs := by
  refine List.ext_getElem (length_msbBits _ _) fun i _ hi => ?_
  rw [getElem_msbBits, testBit_bitsValue bs hi]

theorem bitsValue_concat (bs : List Bool) (b : Bool) : bitsValue (bs ++ [b]) = 2 * bitsValue bs + b.toNat := by
  rw [bitsValue_append, bitsValue_cons, List.length_singleton, pow_one, Nat.mul_comm]
  simp [bitsValue]

/-- One step of the scan, its bit read. -/
theorem vlcScan_of_bit (room code : Nat) {len : Nat} {b : Bool} (hlen : start + len < s.bitlen.toNat)
    (hbit : cellRead s.bsb (start + len) = some b) :
    vlcScan s t start (room + 1) len code =
      match vlcFind t (len + 1) (2 * code + b.toNat) with
      | some v => .ok (v, start + len + 1)
      | none => vlcScan s t start room (len + 1) (2 * code + b.toNat) := by
  rw [vlcScan, needBits_eq_ok (u := ()).mpr hlen, ok_bind, streamBit_eq_ok.mpr hbit, ok_bind]
  rfl

/-- The scan of a codeword passes the bits before its last, which begin no other codeword, and answers its value. -/
theorem vlcScan_of_entry (h : isCode t) {e : VlcEntry α} (he : e ∈ t) (hold : s.streamHolds start e.word)
    (hend : start + e.len ≤ s.bitlen.toNat) {room len : Nat} (hlen : len < e.len) (hroom : e.len ≤ len + room) :
    vlcScan s t start room len (e.code / 2 ^ (e.len - len)) = .ok (e.val, start + e.len) := by
  induction room generalizing len with
  | zero => omega
  | succ room ih =>
    have hbit : cellRead s.bsb (start + len) = some (e.code.testBit (e.len - 1 - len)) := by
      rw [hold len (by simpa using hlen)]
      exact congrArg some (getElem_msbBits _ _ _ _)
    have hnext : 2 * (e.code / 2 ^ (e.len - len)) + (e.code.testBit (e.len - 1 - len)).toNat
        = e.code / 2 ^ (e.len - (len + 1)) := by
      obtain ⟨n, hn⟩ : ∃ n, e.len = len + 1 + n := Nat.exists_eq_add_of_lt hlen |>.imp fun _ h => by omega
      rw [show e.len - len = n + 1 by omega, show e.len - 1 - len = n by omega, show e.len - (len + 1) = n by omega,
        pow_succ, ← Nat.div_div_eq_div_mul, Nat.testBit_eq_decide_div_mod_eq]
      obtain hmod | hmod := Nat.mod_two_eq_zero_or_one (e.code / 2 ^ n) <;> simp only [hmod] <;> simp <;> omega
    rw [vlcScan_of_bit room _ (by omega) hbit, hnext]
    by_cases hlast : len + 1 = e.len
    · rw [hlast, Nat.sub_self, pow_zero, Nat.div_one, vlcFind_of_mem h he]
      dsimp only
      rw [Nat.add_assoc, hlast]
    · have hnone : vlcFind t (len + 1) (e.code / 2 ^ (e.len - (len + 1))) = none := by
        refine vlcFind_eq_none fun e' he' hlen' hcode' => hlast ?_
        rw [← hlen', eq_of_begins h he' he (by omega) (by rw [hcode', hlen'])]
      rw [hnone]
      exact ih (by omega) (by omega)

/-- A scan that answers has read the codeword of an entry. -/
theorem vlcScan_eq_ok {room : Nat} {v : α} {q : Nat} {bs : List Bool} (hold : s.streamHolds start bs)
    (h : vlcScan s t start room bs.length (bitsValue bs) = .ok (v, q)) :
    ∃ e ∈ t, e.val = v ∧ s.streamHolds start e.word ∧ q = start + e.len := by
  induction room generalizing bs with
  | zero => cases h
  | succ room ih =>
    have hsteps := h
    rw [vlcScan] at hsteps
    obtain ⟨_, hneed, hsteps⟩ := bind_eq_ok.mp hsteps
    obtain ⟨b, hbit, -⟩ := bind_eq_ok.mp hsteps
    have hbit := streamBit_eq_ok.mp hbit
    have hold' : s.streamHolds start (bs ++ [b]) := streamHolds_append.mpr ⟨hold, streamHolds_singleton.mpr hbit⟩
    rw [vlcScan_of_bit room _ (needBits_eq_ok.mp hneed) hbit, ← bitsValue_concat] at h
    split at h
    case h_1 w hfind =>
      obtain ⟨e, he, hlen, hcode, rfl⟩ := vlcFind_eq_some hfind
      have hword : e.word = bs ++ [b] := by
        rw [VlcEntry.word, hlen, hcode, ← msbBits_bitsValue (bs ++ [b]), List.length_append, List.length_singleton,
          bitsValue_msbBits, Nat.mod_eq_of_lt]
        simpa using bitsValue_lt (bs ++ [b])
      cases h
      exact ⟨e, he, rfl, hword ▸ hold', by rw [hlen, Nat.add_assoc]⟩
    case h_2 =>
      refine ih hold' ?_
      rwa [List.length_append, List.length_singleton]

/-- Which bits are missing where the scan of `n` bits at `start` finds no codeword. -/
def scanStop (s : State) (start n : Nat) : Stop :=
  if none ∈ (s.bitsFrom start).take n then .fault .undefinedRead
  else if (s.bitsFrom start).length < n then .raise .bitstreamExhausted start
  else .raise .malformedVlcCode start

theorem none_mem_take_bitsFrom {n : Nat} :
    none ∈ (s.bitsFrom start).take n ↔ ∃ i < n, start + i < s.bitlen.toNat ∧ cellRead s.bsb (start + i) = none := by
  rw [List.mem_iff_getElem]
  simp only [List.getElem_take, State.bitsFrom, List.getElem_map, List.getElem_range, List.length_take, List.length_map,
    List.length_range, lt_min_iff]
  exact ⟨fun ⟨i, hi, h⟩ => ⟨i, hi.1, by omega, h⟩, fun ⟨i, hi, hlen, h⟩ => ⟨i, ⟨hi, by omega⟩, h⟩⟩

/-- A scan that stops, after `len` bits that are written. -/
theorem vlcScan_eq_error {room len code : Nat} {x : Stop} (hlen : len = 0 ∨ start + len ≤ s.bitlen.toNat)
    (hwritten : ∀ i < len, cellRead s.bsb (start + i) ≠ none)
    (h : vlcScan s t start room len code = .error x) : x = scanStop s start (len + room) := by
  induction room generalizing len code with
  | zero =>
    obtain rfl : x = .raise .malformedVlcCode start := by
      rw [vlcScan, raise_eq] at h
      cases h
      rfl
    rw [scanStop, if_neg, if_neg]
    · rw [length_bitsFrom]
      omega
    · rw [none_mem_take_bitsFrom]
      rintro ⟨i, hi, -, hnone⟩
      exact hwritten i (by omega) hnone
  | succ room ih =>
    by_cases hend : start + len < s.bitlen.toNat
    · cases hbit : cellRead s.bsb (start + len) with
      | none =>
        rw [vlcScan, needBits_eq_ok (u := ()).mpr hend, ok_bind, streamBit, hbit, written_none, error_bind] at h
        cases h
        rw [scanStop, if_pos (none_mem_take_bitsFrom.mpr ⟨len, by omega, hend, hbit⟩)]
      | some b =>
        rw [vlcScan_of_bit room _ hend hbit] at h
        split at h
        case h_1 => cases h
        case h_2 =>
          rw [show len + (room + 1) = len + 1 + room by omega]
          refine ih (.inr hend) (fun i hi => ?_) h
          obtain hi | rfl : i < len ∨ i = len := by omega
          · exact hwritten i hi
          · rw [hbit]
            exact Option.some_ne_none b
    · rw [vlcScan, needBits_of_not (by omega), error_bind] at h
      cases h
      rw [scanStop, if_neg, if_pos]
      · rw [length_bitsFrom]
        omega
      · rw [none_mem_take_bitsFrom]
        rintro ⟨i, hi, hlt, hnone⟩
        exact hwritten i (by omega) hnone

/-- A table that is a code is shared by its decoder and its encoder (R319). -/
theorem tableShared_of_isCode [DecidableEq α] (h : isCode t) : tableShared t := by
  refine ⟨fun v code hcode s pos hold hend => ?decodes, fun s pos v q hread => ?encodes⟩
  case decodes =>
    obtain ⟨e, he, rfl, rfl⟩ := (vlcCode_eq_some h).mp hcode
    obtain ⟨hlen, hlt⟩ := h.1 e he
    rw [VlcEntry.length_word] at hend ⊢
    have hscan := vlcScan_of_entry h he hold hend hlen ((len_le_maxLen he).trans_eq (Nat.zero_add _).symm)
    rwa [Nat.sub_zero, Nat.div_eq_of_lt hlt] at hscan
  case encodes =>
    obtain ⟨e, he, rfl, hold, rfl⟩ := vlcScan_eq_ok (bs := []) (streamHolds_nil s pos) hread
    exact ⟨e.word, (vlcCode_eq_some h).mpr ⟨e, he, rfl, rfl⟩, hold, by rw [VlcEntry.length_word]⟩

end

/-! The printed tables (42_cavlc.md R287 .. R291, R300 .. R305). -/

theorem isCode_tokenTables : ∀ t ∈ tokenTables, isCode t := by
  unfold isCode
  decide +kernel

theorem isCode_numberTables : ∀ t ∈ numberTables, isCode t := by
  unfold isCode
  decide +kernel

/-- A table is the printed code `word`, whose codewords stand for values of the list `values`. -/
def isPrinted {α : Type} [DecidableEq α] (t : List (VlcEntry α)) (word : α → Option (List Bool))
    (values : List α) : Prop :=
  (∀ v, vlcCode t v = word v) ∧ (∀ v, word v ≠ none → v ∈ values) ∧
  ((values.filterMap word).map List.length).foldr max 0 = maxLen t

theorem wordIn_eq_none {rows : List (List Nat)} {row col : Nat} (h : (rows.getD row []).length ≤ col) :
    wordIn rows row col = none := by
  rw [wordIn, List.getD_eq_default _ _ h]

/-- The (TotalCoeff, TrailingOnes) that the coeff_token tables name, as `State.blockAt` lists them. -/
def tokenValues : List (Nat × Nat) := (List.range 17).flatMap (fun tc => (List.range 4).map (fun t1 => (tc, t1)))

theorem mem_tokenValues {v : Nat × Nat} : v ∈ tokenValues ↔ v.1 < 17 ∧ v.2 < 4 := by
  obtain ⟨tc, t1⟩ := v
  simp [tokenValues]

/-- A table is printed where it agrees with the print on a list of values beyond which neither has any. -/
theorem isPrinted_of_values {α : Type} [DecidableEq α] {t : List (VlcEntry α)} {word : α → Option (List Bool)}
    {values : List α} (ht : ∀ e ∈ t, e.val ∈ values) (hword : ∀ v, v ∉ values → word v = none)
    (h : ∀ v ∈ values, vlcCode t v = word v)
    (hlongest : ((values.filterMap word).map List.length).foldr max 0 = maxLen t) : isPrinted t word values := by
  refine ⟨fun v => ?_, fun v hv => ?_, hlongest⟩
  · by_cases hv : v ∈ values
    · exact h v hv
    · rw [hword v hv, vlcCode_eq_none fun e he heq => hv (by rw [← heq]; exact ht e he)]
  · by_contra hnot
    exact hv (hword v hnot)

/-- Rows of at most 4 columns, at most 17 of them, name no other coeff_token. -/
theorem wordIn_of_not_tokenValue {rows : List (List Nat)} (hrows : rows.length ≤ 17)
    (hcols : ∀ row ∈ rows, row.length ≤ 4) {v : Nat × Nat} (hv : v ∉ tokenValues) : wordIn rows v.1 v.2 = none := by
  rw [mem_tokenValues] at hv
  refine wordIn_eq_none ?_
  by_cases hrow : v.1 < rows.length
  · rw [List.getD_eq_getElem _ _ hrow]
    exact (hcols _ (List.getElem_mem hrow)).trans (by omega)
  · rw [List.getD_eq_default _ _ (by omega)]
    exact Nat.zero_le _

theorem isPrinted_ct0 : isPrinted ct0 (fun v => wordIn tokenRows0 v.1 v.2) tokenValues :=
  isPrinted_of_values (by decide +kernel) (fun _ => wordIn_of_not_tokenValue (by decide) (by decide)) (by decide +kernel)
    (by decide +kernel)

theorem isPrinted_ct1 : isPrinted ct1 (fun v => wordIn tokenRows2 v.1 v.2) tokenValues :=
  isPrinted_of_values (by decide +kernel) (fun _ => wordIn_of_not_tokenValue (by decide) (by decide)) (by decide +kernel)
    (by decide +kernel)

theorem isPrinted_ct2 : isPrinted ct2 (fun v => wordIn tokenRows4 v.1 v.2) tokenValues :=
  isPrinted_of_values (by decide +kernel) (fun _ => wordIn_of_not_tokenValue (by decide) (by decide)) (by decide +kernel)
    (by decide +kernel)

theorem isPrinted_ctCdc : isPrinted ctCdc (fun v => wordIn tokenRowsDc v.1 v.2) tokenValues :=
  isPrinted_of_values (by decide +kernel) (fun _ => wordIn_of_not_tokenValue (by decide) (by decide)) (by decide +kernel)
    (by decide +kernel)

theorem isPrinted_ctFlc : isPrinted ctFlc (fun v => fixedToken v.1 v.2) tokenValues := by
  refine isPrinted_of_values (by decide +kernel) (fun v hv => ?_) (by decide +kernel) (by decide +kernel)
  rw [mem_tokenValues] at hv
  rw [fixedToken, if_neg (by omega), if_neg (by omega)]

/-- What holds of the printed coeff_token codewords holds of the codeword for any nC (42_cavlc.md R285). -/
theorem tokenWord_of_rows {P : Option (List Bool) → Prop} {nC : Int} {v : Nat × Nat}
    (hdc : nC < 0 → P (wordIn tokenRowsDc v.1 v.2))
    (h : 0 ≤ nC → P (wordIn tokenRows0 v.1 v.2) ∧ P (wordIn tokenRows2 v.1 v.2) ∧ P (wordIn tokenRows4 v.1 v.2) ∧
      P (fixedToken v.1 v.2)) : P (tokenWord nC v) := by
  by_cases hneg : nC < 0
  · rw [tokenWord, if_pos hneg]
    exact hdc hneg
  · obtain ⟨h0, h2, h4, h8⟩ := h (by omega)
    unfold tokenWord
    split_ifs
    · exact h0
    · exact h2
    · exact h4
    · exact h8

/-- The coeff_token table for any nC (42_cavlc.md R285). -/
theorem isPrinted_ctTable (nC : Int) : isPrinted (ctTable nC) (tokenWord nC) tokenValues := by
  unfold ctTable tokenWord
  split_ifs
  · exact isPrinted_ctCdc
  · exact isPrinted_ct0
  · exact isPrinted_ct1
  · exact isPrinted_ct2
  · exact isPrinted_ctFlc

theorem isCode_ctTable (nC : Int) : isCode (ctTable nC) := by
  refine isCode_tokenTables _ ?_
  unfold ctTable
  split_ifs <;> simp [tokenTables]

theorem wordIn_of_rows_le {rows : List (List Nat)} {n row : Nat} (col : Nat) (hrows : rows.length ≤ n)
    (hrow : row ∉ List.range n) : wordIn rows row col = none := by
  rw [List.mem_range] at hrow
  exact wordIn_eq_none (by rw [List.getD_eq_default _ _ (by omega)]; exact Nat.zero_le _)

theorem length_blockOrder_le (mnc : Mnc) : (blockOrder mnc).length ≤ 16 := by cases mnc <;> decide

/-- The total_zeros table for any length and TotalCoeff (42_cavlc.md R299). -/
theorem isPrinted_tzTable {mnc : Mnc} {tc : Nat} (htc : 1 ≤ tc) (hlen : tc < (blockOrder mnc).length) :
    isPrinted (tzTable mnc tc) (zerosWord mnc tc) (List.range 16) := by
  have hnone : ∀ tz, tz ∉ List.range 16 → zerosWord mnc tc tz = none := by
    intro tz htz
    unfold zerosWord
    split_ifs <;> exact wordIn_of_rows_le _ (by decide) htz
  have hle := length_blockOrder_le mnc
  suffices h : ∀ mnc, ∀ tc ∈ List.range 16, 1 ≤ tc → tc < (blockOrder mnc).length →
      (∀ e ∈ tzTable mnc tc, e.val ∈ List.range 16) ∧
      (∀ tz ∈ List.range 16, vlcCode (tzTable mnc tc) tz = zerosWord mnc tc tz) ∧
      (((List.range 16).filterMap (zerosWord mnc tc)).map List.length).foldr max 0 = maxLen (tzTable mnc tc) by
    obtain ⟨hvalues, hagree, hlongest⟩ := h mnc tc (List.mem_range.mpr (by omega)) htc hlen
    exact isPrinted_of_values hvalues hnone hagree hlongest
  intro mnc
  cases mnc <;> decide +kernel

theorem isCode_tzTable {mnc : Mnc} {tc : Nat} (htc : 1 ≤ tc) (hlen : tc < (blockOrder mnc).length) :
    isCode (tzTable mnc tc) := by
  have hsixteen : ∀ {n}, n ≤ 16 → tc < n → totalZeros tc ∈ numberTables := fun hn hlt =>
    List.mem_append_left _ (List.mem_append_left _ (List.mem_map_of_mem (List.mem_range'_1.mpr (by omega))))
  refine isCode_numberTables _ ?_
  cases mnc with
  | m16 => exact hsixteen (by decide) hlen
  | m15 => exact hsixteen (by decide) hlen
  | m4 =>
    have hfour : tc < 4 := hlen
    exact List.mem_append_left _ (List.mem_append_right _ (List.mem_map_of_mem (List.mem_range'_1.mpr (by omega))))

/-- The run_before table for any number of zeros left (42_cavlc.md R304). -/
theorem isPrinted_runBefore {zl : Nat} (hzl : 1 ≤ zl) : isPrinted (runBefore (min zl 7)) (runWord zl) (List.range 15) := by
  have hnone : ∀ run, run ∉ List.range 15 → runWord zl run = none := fun run => wordIn_of_rows_le _ (by decide)
  suffices h : ∀ k ∈ List.range 8, 1 ≤ k →
      (∀ e ∈ runBefore k, e.val ∈ List.range 15) ∧
      (∀ run ∈ List.range 15, vlcCode (runBefore k) run = wordIn runRows run (k - 1)) ∧
      (((List.range 15).filterMap fun run => wordIn runRows run (k - 1)).map List.length).foldr max 0 = maxLen (runBefore k) by
    obtain ⟨hvalues, hagree, hlongest⟩ := h (min zl 7) (List.mem_range.mpr (by omega)) (by omega)
    exact isPrinted_of_values hvalues hnone hagree hlongest
  decide +kernel

theorem isCode_runBefore {zl : Nat} (hzl : 1 ≤ zl) : isCode (runBefore (min zl 7)) := by
  refine isCode_numberTables _ (List.mem_append_right _ (List.mem_map_of_mem ?_))
  rw [List.mem_range'_1]
  omega

/-- Settles O38: every table is a code, and each of its codewords is the printed one. -/
theorem vlcTablesAreShared : Obligations.VlcTablesAreShared :=
  ⟨fun t ht => tableShared_of_isCode (isCode_tokenTables t ht), fun t ht => tableShared_of_isCode (isCode_numberTables t ht),
    fun nC => (isPrinted_ctTable nC).1, fun _ _ tz htc hlen => (isPrinted_tzTable htc hlen).1 tz,
    fun _ run hzl => (isPrinted_runBefore hzl).1 run⟩

end Sys2Proof.Machine
end

section
/-! Reading a codeword of a printed table (42_cavlc.md R286): the model's scan answers, raises and faults as the one codeword
that the stream begins with says. -/

namespace Sys2Proof.Machine

section
variable {α : Type} [DecidableEq α] {t : List (VlcEntry α)} {word : α → Option (List Bool)} {values : List α} {s : State}
  {pos : Nat}

/-- The stream begins with a bit string before `BITLEN`. -/
theorem prefix_bitsFrom_iff {code : List Bool} (h : 0 < code.length) :
    code.map some <+: s.bitsFrom pos ↔ s.streamHolds pos code ∧ pos + code.length ≤ s.bitlen.toNat := by
  constructor
  · intro hprefix
    have hlen := hprefix.length_le
    rw [List.length_map, length_bitsFrom] at hlen
    refine ⟨fun i hi => ?_, by omega⟩
    have hget := hprefix.getElem (i := i) (by simpa using hi)
    simpa [State.bitsFrom] using hget.symm
  · rintro ⟨hold, hlen⟩
    rw [bitsFrom_of_streamHolds hold hlen]
    exact List.prefix_append _ _

theorem word_length {v : α} {w : List Bool} (hcode : isCode t) (hprinted : isPrinted t word values) (h : word v = some w) :
    0 < w.length ∧ w.length ≤ maxLen t := by
  rw [← hprinted.1] at h
  obtain ⟨e, he, -, rfl⟩ := (vlcCode_eq_some hcode).mp h
  rw [VlcEntry.length_word]
  exact ⟨(hcode.1 e he).1, len_le_maxLen he⟩

/-- The model's scan is the reading of the codeword that the stream begins with. -/
theorem vlcRead_eq_codewordAt (hcode : isCode t) (hprinted : isPrinted t word values) :
    vlcRead s t pos = (codewordAt word values (s.bitsFrom pos)).from pos := by
  obtain ⟨hwords, hvalues, hlongest⟩ := hprinted
  obtain ⟨hdecodes, hencodes⟩ := tableShared_of_isCode hcode
  have hlength : ∀ {v w}, word v = some w → 0 < w.length := fun h => (word_length hcode ⟨hwords, hvalues, hlongest⟩ h).1
  unfold codewordAt
  rw [hlongest]
  dsimp only
  split
  case h_1 v hfind =>
    have hbegins := List.find?_some hfind
    obtain ⟨w, hw, hprefix⟩ : ∃ w, word v = some w ∧ w.map some <+: s.bitsFrom pos := by
      simpa [Option.any_eq_true] using hbegins
    obtain ⟨hold, hlen⟩ := (prefix_bitsFrom_iff (hlength hw)).mp hprefix
    rw [hdecodes v w ((hwords v).trans hw) s pos hold hlen, Reading.from_value, hw, Option.getD_some]
  case h_2 hfind =>
    cases hread : vlcRead s t pos with
    | ok r =>
      obtain ⟨v, q⟩ := r
      obtain ⟨w, hw, hold, rfl⟩ := hencodes s pos v q hread
      rw [hwords] at hw
      have hlen : pos + w.length ≤ s.bitlen.toNat := by
        have := meets_vlcRead s t pos
        rwa [hread] at this
      refine absurd ?_ (List.find?_eq_none.mp hfind v (hvalues v (by simp [hw])))
      simpa [hw] using (prefix_bitsFrom_iff (hlength hw)).mpr ⟨hold, hlen⟩
    | error x =>
      obtain rfl := vlcScan_eq_error (.inl rfl) (fun _ hi => absurd hi (Nat.not_lt_zero _)) hread
      rw [scanStop, Nat.zero_add]
      split_ifs <;> rfl

theorem codewordAt_of_holds {v : α} {w : List Bool} (hcode : isCode t) (hprinted : isPrinted t word values)
    (h : word v = some w) (hold : s.streamHolds pos w) (hlen : pos + w.length ≤ s.bitlen.toNat) :
    (codewordAt word values (s.bitsFrom pos)).from pos = .ok (v, pos + w.length) := by
  rw [← vlcRead_eq_codewordAt hcode hprinted]
  exact (tableShared_of_isCode hcode).1 v w ((hprinted.1 v).trans h) s pos hold hlen

theorem codewordAt_eq_ok {v : α} {q : Nat} (hcode : isCode t) (hprinted : isPrinted t word values)
    (h : (codewordAt word values (s.bitsFrom pos)).from pos = .ok (v, q)) :
    ∃ w, word v = some w ∧ q = pos + w.length := by
  rw [← vlcRead_eq_codewordAt hcode hprinted] at h
  obtain ⟨w, hw, -, hq⟩ := (tableShared_of_isCode hcode).2 s pos v q h
  exact ⟨w, (hprinted.1 v).symm.trans hw, hq⟩

end

end Sys2Proof.Machine
end

section
/-! The code of a block (42_cavlc.md R294, R298, R311 .. R316): the model's encoder writes the code that the rules give, how
long a code is, and what `CAVLCENC` does. -/

namespace Sys2Proof.Machine

/-! The non-zero coefficients (42_cavlc.md R311). -/

/-- The non-zero coefficients, from the highest frequency down. -/
def levelsOf (coeff : List Int) : List Int := (placesOf coeff).map (fun k => coeff.getD k 0)

theorem placesOf_cons (c : Int) (cs : List Int) :
    placesOf (c :: cs) = (placesOf cs).map (· + 1) ++ if c = 0 then [] else [0] := by
  simp only [placesOf, List.length_cons, List.range_succ_eq_map, List.filter_cons, List.getD_cons_zero, List.filter_map]
  by_cases h : c = 0 <;> simp [h, Function.comp_def]

theorem levelsOf_cons (c : Int) (cs : List Int) : levelsOf (c :: cs) = levelsOf cs ++ if c = 0 then [] else [c] := by
  rw [levelsOf, placesOf_cons, List.map_append, List.map_map]
  split_ifs <;> rfl

theorem nonZeros_eq (k : Nat) (cs : List Int) :
    nonZeros k cs = (placesOf cs).map (fun i => (k + i, cs.getD i 0)) := by
  induction cs generalizing k with
  | nil => rfl
  | cons c cs ih =>
    rw [nonZeros, ih, placesOf_cons, List.map_append, List.map_map]
    congr 1
    · refine List.map_congr_left fun i _ => ?_
      simp [Nat.add_assoc, Nat.add_comm 1]
    · split_ifs <;> rfl

theorem mem_placesOf {coeff : List Int} {k : Nat} : k ∈ placesOf coeff ↔ k < coeff.length ∧ coeff.getD k 0 ≠ 0 := by
  simp [placesOf]

/-- The scan indices fall strictly. -/
theorem placesOf_falls (coeff : List Int) : (placesOf coeff).Pairwise (· > ·) := by
  rw [placesOf, List.pairwise_reverse]
  exact (List.pairwise_lt_range).filter _

theorem levelsOf_eq_filter (coeff : List Int) : levelsOf coeff = (coeff.filter (· ≠ 0)).reverse := by
  induction coeff with
  | nil => rfl
  | cons c cs ih =>
    rw [levelsOf_cons, ih, List.filter_cons]
    by_cases h : c = 0 <;> simp [h]

@[simp] theorem length_placesOf (coeff : List Int) : (placesOf coeff).length = totalCoeff coeff := by
  have h := congrArg List.length (levelsOf_eq_filter coeff)
  rwa [levelsOf, List.length_map, List.length_reverse] at h

@[simp] theorem length_levelsOf (coeff : List Int) : (levelsOf coeff).length = totalCoeff coeff := by
  rw [levelsOf, List.length_map, length_placesOf]

theorem totalCoeff_le (coeff : List Int) : totalCoeff coeff ≤ coeff.length := List.length_filter_le _ _

theorem ne_zero_of_mem_levelsOf {coeff : List Int} {l : Int} (h : l ∈ levelsOf coeff) : l ≠ 0 := by
  rw [levelsOf_eq_filter, List.mem_reverse, List.mem_filter, decide_eq_true_eq] at h
  exact h.2

theorem onesOf_eq (coeff : List Int) :
    onesOf coeff = (((levelsOf coeff).take 3).takeWhile (fun l => l.natAbs = 1)).length := by
  rw [onesOf, levelsOf_eq_filter]

theorem trailingOnes_eq (room : Nat) (ls : List Int) :
    trailingOnes room ls = ((ls.take room).takeWhile (fun l => l.natAbs = 1)).length := by
  induction room generalizing ls with
  | zero => rfl
  | succ room ih =>
    cases ls with
    | nil => rfl
    | cons l ls =>
      rw [trailingOnes, List.take_succ_cons, List.takeWhile_cons]
      by_cases hl : l.natAbs = 1 <;> simp [hl, ih]

theorem onesOf_le (coeff : List Int) : onesOf coeff ≤ 3 ∧ onesOf coeff ≤ totalCoeff coeff := by
  have h := (List.takeWhile_sublist (fun l : Int => decide (l.natAbs = 1)) (l := (levelsOf coeff).take 3)).length_le
  rw [← onesOf_eq, List.length_take, length_levelsOf] at h
  omega

/-! Levels (42_cavlc.md R298, R312, R313). -/

theorem suffixNext_eq (sl : Nat) (l : Int) : suffixNext sl l = nextSuffixLength sl l := by
  have hmax : (if sl = 0 then 1 else sl) = max sl 1 := by split_ifs <;> omega
  simp only [suffixNext, hmax, nextSuffixLength, Nat.shiftLeft_eq]
  exact if_congr and_comm rfl rfl

theorem codeOfLevel_eq (l : Int) (first : Bool) : codeOfLevel l first = levelNumber first l := by
  cases first <;> simp only [codeOfLevel, levelNumber, if_true, Bool.false_eq_true, if_false] <;> split_ifs <;> omega

theorem levelBits_eq (zeros n x : Nat) : levelBits zeros n x = prefixWord zeros n x := by
  rw [prefixWord, List.append_assoc]
  rfl

theorem levelCodeword_eq (sl : Nat) (first : Bool) (l : Int) :
    levelCodeword sl (codeOfLevel l first) = levelWord sl first l := by
  simp only [levelCodeword, levelWord, codeOfLevel_eq, levelBits_eq, Nat.shiftLeft_eq, Nat.shiftRight_eq_div_pow]
  by_cases hsl : sl = 0
  · simp only [hsl, true_and, if_true]
    split_ifs <;> rfl
  · simp only [hsl, false_and, if_false]

theorem encodeLevels_of_lt {t1 i : Nat} (h : t1 < i) (sl : Nat) (ls : List Int) :
    encodeLevels t1 i sl ls = levelWords sl false ls := by
  induction ls generalizing i sl with
  | nil => rfl
  | cons l ls ih =>
    rw [encodeLevels, if_neg (by omega), ih (by omega), levelWords, show decide (i = t1 ∧ t1 < 3) = false by simp; omega,
      levelCodeword_eq, suffixNext_eq]
    cases levelWord sl false l <;> cases levelWords (nextSuffixLength sl l) false ls <;> rfl

/-- The levels after the trailing ones; the first of them follows fewer than three. -/
theorem encodeLevels_self (t1 sl : Nat) (ls : List Int) :
    encodeLevels t1 t1 sl ls = levelWords sl (decide (t1 < 3)) ls := by
  cases ls with
  | nil => rfl
  | cons l ls =>
    rw [encodeLevels, if_neg (Nat.lt_irrefl _), encodeLevels_of_lt (Nat.lt_succ_self _), levelWords, levelCodeword_eq,
      suffixNext_eq]
    simp only [true_and]
    cases levelWord sl (decide (t1 < 3)) l <;> cases levelWords (nextSuffixLength sl l) false ls <;> rfl

/-- The signs of the trailing ones stand before the levels. -/
theorem encodeLevels_eq {t1 i j : Nat} (hij : i + j = t1) (sl : Nat) {ls : List Int} (hj : j ≤ ls.length) :
    encodeLevels t1 i sl ls
      = (levelWords sl (decide (t1 < 3)) (ls.drop j)).map ((ls.take j).map (fun l => decide (l < 0)) ++ ·) := by
  induction j generalizing i ls with
  | zero =>
    obtain rfl : i = t1 := hij
    rw [encodeLevels_self]
    simp
  | succ j ih =>
    cases ls with
    | nil => cases hj
    | cons l ls =>
      rw [encodeLevels, if_pos (by omega), ih (by omega) (Nat.le_of_succ_le_succ hj), List.drop_succ_cons, List.take_succ_cons]
      cases levelWords sl (decide (t1 < 3)) (ls.drop j) <;> rfl

/-! Zeros and runs (42_cavlc.md R299, R314). -/

theorem encodeRuns_eq (zl : Nat) (ps : List Nat) : encodeRuns zl ps = runWords zl ps := by
  induction ps generalizing zl with
  | nil => rfl
  | cons p ps ih =>
    cases ps with
    | nil => rfl
    | cons q ps =>
      rw [encodeRuns, runWords]
      by_cases hzl : zl = 0
      · rw [if_pos hzl, if_pos hzl]
      · rw [if_neg hzl, if_neg hzl, (isPrinted_runBefore (by omega)).1, ih]
        cases runWord zl (p - q - 1) <;> cases runWords (zl - (p - q - 1)) (q :: ps) <;> rfl

theorem length_blockOrder (mnc : Mnc) : (blockOrder mnc).length = mncLen mnc := by cases mnc <;> rfl

/-- Where every coefficient is non-zero there are no zeros to write. -/
theorem encodeZeros_eq {coeff : List Int} {mnc : Mnc} (h : coeff.length = (blockOrder mnc).length) :
    encodeZeros mnc (placesOf coeff) = zerosCode coeff mnc := by
  have hle := totalCoeff_le coeff
  have hlen := length_placesOf coeff
  cases hps : placesOf coeff with
  | nil =>
    rw [hps] at hlen
    rw [zerosCode, if_pos (.inl hlen.symm)]
    rfl
  | cons p ps =>
    rw [hps, List.length_cons] at hlen
    have hp : p < coeff.length := (mem_placesOf.mp (by rw [hps]; exact List.mem_cons_self)).1
    have hzeros : zerosOf coeff = p + 1 - totalCoeff coeff := by rw [zerosOf, hps, List.headD_cons]
    rw [encodeZeros, hlen, ← length_blockOrder, encodeRuns_eq, ← hzeros, zerosCode, hps]
    by_cases hfull : (blockOrder mnc).length ≤ totalCoeff coeff
    · have hzero : zerosOf coeff = 0 := by omega
      have hruns : runWords 0 (p :: ps) = some [] := by cases ps <;> rfl
      rw [if_neg (by omega), if_pos (.inr hfull), hzero, hruns]
      rfl
    · rw [if_pos (by omega), if_neg (by omega), (isPrinted_tzTable (by omega) (by omega)).1]
      cases zerosWord mnc (totalCoeff coeff) (zerosOf coeff) <;> cases runWords (zerosOf coeff) (p :: ps) <;> rfl

/-! The whole code (42_cavlc.md R315). -/

theorem blockCode_eq (coeff : List Int) (nC : Int) (mnc : Mnc) :
    blockCode coeff nC mnc =
      match tokenWord nC (totalCoeff coeff, onesOf coeff),
        levelWords (firstSuffixLength (totalCoeff coeff) (onesOf coeff)) (decide (onesOf coeff < 3))
          ((levelsOf coeff).drop (onesOf coeff)), zerosCode coeff mnc with
      | some token, some rest, some zeros =>
        some (token ++ ((levelsOf coeff).take (onesOf coeff)).map (fun l => decide (l < 0)) ++ rest ++ zeros)
      | _, _, _ => none := rfl

theorem encodeBlock_eq {coeff : List Int} {mnc : Mnc} (nC : Int) (h : coeff.length = (blockOrder mnc).length) :
    encodeBlock coeff nC mnc = (blockCode coeff nC mnc).map (fun code => (code, totalCoeff coeff, onesOf coeff)) := by
  have hlevels : (nonZeros 0 coeff).map Prod.snd = levelsOf coeff := by
    rw [nonZeros_eq, List.map_map]
    rfl
  have hplaces : (nonZeros 0 coeff).map Prod.fst = placesOf coeff := by
    rw [nonZeros_eq, List.map_map]
    simp [Function.comp_def]
  have hcount : (nonZeros 0 coeff).length = totalCoeff coeff := by rw [nonZeros_eq, List.length_map, length_placesOf]
  have hones : onesOf coeff ≤ (levelsOf coeff).length := (onesOf_le coeff).2.trans_eq (length_levelsOf coeff).symm
  simp only [encodeBlock, hlevels, hplaces, hcount, trailingOnes_eq, ← onesOf_eq, (isPrinted_ctTable nC).1,
    encodeLevels_eq (Nat.zero_add _) _ hones, encodeZeros_eq h, blockCode_eq]
  rw [show suffixStart (totalCoeff coeff) (onesOf coeff) = firstSuffixLength (totalCoeff coeff) (onesOf coeff) from rfl]
  cases tokenWord nC (totalCoeff coeff, onesOf coeff) <;>
    cases levelWords (firstSuffixLength (totalCoeff coeff) (onesOf coeff)) (decide (onesOf coeff < 3))
      ((levelsOf coeff).drop (onesOf coeff)) <;>
    cases zerosCode coeff mnc <;> simp

end Sys2Proof.Machine
end

section
/-! How long the code of a block is, which blocks have one (42_cavlc.md R313 .. R315), and what `CAVLCENC` does (R316). -/

namespace Sys2Proof.Machine

/-! The parts of a code. -/

theorem levelWords_cons_eq_some {sl : Nat} {after : Bool} {l : Int} {ls : List Int} {code : List Bool} :
    levelWords sl after (l :: ls) = some code ↔
      ∃ w rest, levelWord sl after l = some w ∧ levelWords (nextSuffixLength sl l) false ls = some rest ∧
        code = w ++ rest := by
  rw [levelWords]
  cases levelWord sl after l <;> cases levelWords (nextSuffixLength sl l) false ls <;> simp [eq_comm]

theorem runWords_cons_eq_some {zl p q : Nat} {ps : List Nat} {code : List Bool} (hzl : 1 ≤ zl) :
    runWords zl (p :: q :: ps) = some code ↔
      ∃ w rest, runWord zl (p - q - 1) = some w ∧ runWords (zl - (p - q - 1)) (q :: ps) = some rest ∧
        code = w ++ rest := by
  rw [runWords, if_neg (by omega)]
  cases runWord zl (p - q - 1) <;> cases runWords (zl - (p - q - 1)) (q :: ps) <;> simp [eq_comm]

theorem runWords_zero (ps : List Nat) : runWords 0 ps = some [] := by
  cases ps with
  | nil => rfl
  | cons p ps => cases ps <;> rfl

theorem zerosCode_eq_some {coeff : List Int} {mnc : Mnc} {code : List Bool} (hpos : totalCoeff coeff ≠ 0)
    (hlt : totalCoeff coeff < (blockOrder mnc).length) :
    zerosCode coeff mnc = some code ↔
      ∃ w rest, zerosWord mnc (totalCoeff coeff) (zerosOf coeff) = some w ∧
        runWords (zerosOf coeff) (placesOf coeff) = some rest ∧ code = w ++ rest := by
  rw [zerosCode, if_neg (by omega)]
  cases zerosWord mnc (totalCoeff coeff) (zerosOf coeff) <;> cases runWords (zerosOf coeff) (placesOf coeff) <;> simp [eq_comm]

theorem zerosCode_of_noZeros {coeff : List Int} {mnc : Mnc}
    (h : totalCoeff coeff = 0 ∨ (blockOrder mnc).length ≤ totalCoeff coeff) : zerosCode coeff mnc = some [] :=
  if_pos h

theorem blockCode_eq_some {coeff : List Int} {nC : Int} {mnc : Mnc} {code : List Bool} :
    blockCode coeff nC mnc = some code ↔
      ∃ token rest zeros, tokenWord nC (totalCoeff coeff, onesOf coeff) = some token ∧
        levelWords (firstSuffixLength (totalCoeff coeff) (onesOf coeff)) (decide (onesOf coeff < 3))
          ((levelsOf coeff).drop (onesOf coeff)) = some rest ∧ zerosCode coeff mnc = some zeros ∧
        code = token ++ ((levelsOf coeff).take (onesOf coeff)).map (fun l => decide (l < 0)) ++ rest ++ zeros := by
  rw [blockCode_eq]
  cases tokenWord nC (totalCoeff coeff, onesOf coeff) <;>
    cases levelWords (firstSuffixLength (totalCoeff coeff) (onesOf coeff)) (decide (onesOf coeff < 3))
      ((levelsOf coeff).drop (onesOf coeff)) <;>
    cases zerosCode coeff mnc <;> simp [eq_comm]

/-! Lengths of codewords. -/

theorem length_tokenWord {nC : Int} {v : Nat × Nat} {w : List Bool} (h : tokenWord nC v = some w) :
    1 ≤ w.length ∧ w.length ≤ 16 := by
  have hle : maxLen (ctTable nC) ≤ 16 := by
    unfold ctTable
    split_ifs <;> decide +kernel
  have hlen := word_length (isCode_ctTable nC) (isPrinted_ctTable nC) h
  omega

theorem length_zerosWord {mnc : Mnc} {tc tz : Nat} {w : List Bool} (htc : 1 ≤ tc) (hlt : tc < (blockOrder mnc).length)
    (h : zerosWord mnc tc tz = some w) : w.length ≤ 9 := by
  have hle : ∀ mnc, ∀ tc ∈ List.range 16, maxLen (tzTable mnc tc) ≤ 9 := by
    intro mnc
    cases mnc <;> decide +kernel
  have hmnc := length_blockOrder_le mnc
  exact (word_length (isCode_tzTable htc hlt) (isPrinted_tzTable htc hlt) h).2.trans
    (hle mnc tc (List.mem_range.mpr (by omega)))

theorem length_runWord {zl run : Nat} {w : List Bool} (hzl : 1 ≤ zl) (h : runWord zl run = some w) :
    w.length ≤ 11 := by
  have hle : ∀ k ∈ List.range 8, maxLen (runBefore k) ≤ 11 := by decide +kernel
  exact (word_length (isCode_runBefore hzl) (isPrinted_runBefore hzl) h).2.trans
    (hle _ (List.mem_range.mpr (by omega)))

theorem length_prefixWord (zeros n x : Nat) : (prefixWord zeros n x).length = zeros + 1 + n := by
  simp only [prefixWord, fieldBits, List.length_append, List.length_replicate, List.length_singleton, List.length_map,
    List.length_range]

/-- suffixLength stays at most 6 (42_cavlc.md R298). -/
theorem nextSuffixLength_le {sl : Nat} (h : sl ≤ 6) (l : Int) : nextSuffixLength sl l ≤ 6 := by
  unfold nextSuffixLength
  split_ifs <;> omega

theorem firstSuffixLength_le (tc t1 : Nat) : firstSuffixLength tc t1 ≤ 6 := by
  unfold firstSuffixLength
  split_ifs <;> decide

/-- The codeword of a level is a level_prefix and a suffix of the size that the decoder expects, which stand for its number
(42_cavlc.md R296, R297, R313). -/
theorem levelWord_eq_some {sl : Nat} {after : Bool} {l : Int} {w : List Bool} (h : levelWord sl after l = some w) :
    ∃ zeros x, zeros ≤ 15 ∧ x < 2 ^ suffixBits zeros sl ∧ w = prefixWord zeros (suffixBits zeros sl) x ∧
      levelNumber after l = zeros <<< sl + x + if zeros = 15 ∧ sl = 0 then 15 else 0 := by
  unfold levelWord at h
  dsimp only at h
  generalize levelNumber after l = k at h ⊢
  by_cases hsl : sl = 0
  · subst hsl
    simp only [true_and, if_true] at h
    split_ifs at h with h14 h30 hescape <;> obtain rfl := Option.some.inj h
    · have hn : suffixBits k 0 = 0 := by rw [suffixBits, if_neg (by omega), if_neg (by omega)]
      exact ⟨k, 0, by omega, by rw [hn]; decide, by rw [hn], by rw [if_neg (by omega)]; rfl⟩
    · exact ⟨14, k - 14, by decide, show k - 14 < 2 ^ 4 by omega, rfl, show k = 14 + (k - 14) + 0 by omega⟩
    · exact ⟨15, k - 30, by decide, show k - 30 < 2 ^ 12 by omega, rfl, show k = 15 + (k - 30) + 15 by omega⟩
  · have hpow : 0 < 2 ^ sl := Nat.two_pow_pos sl
    simp only [hsl, false_and, and_false, if_false, Nat.shiftLeft_eq, Nat.shiftRight_eq_div_pow] at h ⊢
    split_ifs at h with hshort hescape <;> obtain rfl := Option.some.inj h
    · have hzeros : k / 2 ^ sl < 15 := Nat.div_lt_of_lt_mul (by rwa [Nat.mul_comm])
      have hn : suffixBits (k / 2 ^ sl) sl = sl := by rw [suffixBits, if_neg (by omega), if_neg (fun h => hsl h.2)]
      exact ⟨_, _, hzeros.le, by rw [hn]; exact Nat.mod_lt k hpow, by rw [hn], (Nat.div_add_mod' k (2 ^ sl)).symm⟩
    · exact ⟨15, k - 15 * 2 ^ sl, Nat.le_refl _, show k - 15 * 2 ^ sl < 2 ^ 12 by omega, rfl, by omega⟩

theorem length_levelWord {sl : Nat} (hsl : sl ≤ 6) {after : Bool} {l : Int} {w : List Bool}
    (h : levelWord sl after l = some w) : w.length ≤ 28 := by
  obtain ⟨zeros, x, hzeros, -, rfl, -⟩ := levelWord_eq_some h
  rw [length_prefixWord, suffixBits]
  split_ifs <;> omega

theorem length_levelWords {sl : Nat} (hsl : sl ≤ 6) {after : Bool} {ls : List Int} {code : List Bool}
    (h : levelWords sl after ls = some code) : code.length ≤ 28 * ls.length := by
  induction ls generalizing sl after code with
  | nil =>
    obtain rfl := Option.some.inj h
    exact Nat.zero_le _
  | cons l ls ih =>
    obtain ⟨w, rest, hw, hrest, rfl⟩ := levelWords_cons_eq_some.mp h
    have hwlen := length_levelWord hsl hw
    have hrestlen := ih (nextSuffixLength_le hsl l) hrest
    rw [List.length_append, List.length_cons]
    omega

theorem length_runWords {zl : Nat} {ps : List Nat} {code : List Bool} (h : runWords zl ps = some code) :
    code.length ≤ 11 * ps.length := by
  induction ps generalizing zl code with
  | nil =>
    obtain rfl := Option.some.inj h
    exact Nat.zero_le _
  | cons p ps ih =>
    cases ps with
    | nil =>
      obtain rfl := Option.some.inj h
      exact Nat.zero_le _
    | cons q ps =>
      obtain rfl | hzl := Nat.eq_zero_or_pos zl
      · rw [runWords_zero] at h
        obtain rfl := Option.some.inj h
        exact Nat.zero_le _
      · obtain ⟨w, rest, hw, hrest, rfl⟩ := (runWords_cons_eq_some hzl).mp h
        have hwlen := length_runWord hzl hw
        have hrestlen := ih hrest
        rw [List.length_append, List.length_cons]
        omega

theorem length_zerosCode {coeff : List Int} {mnc : Mnc} {code : List Bool} (h : zerosCode coeff mnc = some code) :
    code.length ≤ 9 + 11 * totalCoeff coeff := by
  by_cases hnone : totalCoeff coeff = 0 ∨ (blockOrder mnc).length ≤ totalCoeff coeff
  · rw [zerosCode_of_noZeros hnone] at h
    obtain rfl := Option.some.inj h
    exact Nat.zero_le _
  · obtain ⟨hpos, hlt⟩ := not_or.mp hnone
    obtain ⟨w, rest, hw, hrest, rfl⟩ := (zerosCode_eq_some hpos (by omega)).mp h
    have hwlen := length_zerosWord (by omega) (by omega) hw
    have hrestlen := length_runWords hrest
    rw [length_placesOf] at hrestlen
    rw [List.length_append]
    omega

theorem length_blockCode {coeff : List Int} {nC : Int} {mnc : Mnc} {code : List Bool} (hlen : coeff.length ≤ 16)
    (h : blockCode coeff nC mnc = some code) : 1 ≤ code.length ∧ code.length ≤ 1000 := by
  obtain ⟨token, rest, zeros, htoken, hrest, hzeros, rfl⟩ := blockCode_eq_some.mp h
  have htokenlen := length_tokenWord htoken
  have hrestlen := length_levelWords (firstSuffixLength_le _ _) hrest
  have hzeroslen := length_zerosCode hzeros
  have hones := onesOf_le coeff
  have htc := totalCoeff_le coeff
  simp only [List.length_append, List.length_map, List.length_take, List.length_drop, length_levelsOf] at *
  omega

/-! Which blocks have a code. -/

theorem exists_levelWord {sl : Nat} (after : Bool) {l : Int} (hl : l.natAbs ≤ 2063) :
    ∃ w, levelWord sl after l = some w := by
  have hk : levelNumber after l < 30 + 4096 := by
    unfold levelNumber
    split_ifs <;> omega
  have hescape : 30 ≤ if sl = 0 then 30 else 15 <<< sl := by
    split_ifs with hsl
    · exact Nat.le_refl _
    · rw [Nat.shiftLeft_eq]
      exact Nat.mul_le_mul_left 15 (Nat.le_self_pow hsl 2)
  unfold levelWord
  dsimp only
  rw [if_pos (show levelNumber after l < (if sl = 0 then 30 else 15 <<< sl) + 4096 by omega)]
  split_ifs <;> exact ⟨_, rfl⟩

theorem exists_levelWords {sl : Nat} (after : Bool) {ls : List Int} (h : ∀ l ∈ ls, l.natAbs ≤ 2063) :
    ∃ code, levelWords sl after ls = some code := by
  induction ls generalizing sl after with
  | nil => exact ⟨[], rfl⟩
  | cons l ls ih =>
    obtain ⟨w, hw⟩ := exists_levelWord (sl := sl) after (h l List.mem_cons_self)
    obtain ⟨rest, hrest⟩ := ih (sl := nextSuffixLength sl l) false fun x hx => h x (List.mem_cons_of_mem _ hx)
    exact ⟨_, levelWords_cons_eq_some.mpr ⟨w, rest, hw, hrest, rfl⟩⟩

theorem exists_zerosWord {mnc : Mnc} {tc tz : Nat} (htc : 1 ≤ tc) (h : tz + tc ≤ (blockOrder mnc).length)
    (hlt : tc < (blockOrder mnc).length) : ∃ w, zerosWord mnc tc tz = some w := by
  have hmnc := length_blockOrder_le mnc
  have hall : ∀ mnc, ∀ tc ∈ List.range 16, ∀ tz ∈ List.range 16, 1 ≤ tc → tz + tc ≤ (blockOrder mnc).length →
      tc < (blockOrder mnc).length → (zerosWord mnc tc tz).isSome := by
    intro mnc
    cases mnc <;> decide +kernel
  exact Option.isSome_iff_exists.mp
    (hall mnc tc (List.mem_range.mpr (by omega)) tz (List.mem_range.mpr (by omega)) htc h hlt)

theorem exists_runWord {zl run : Nat} (hzl : 1 ≤ zl) (hrun : run ≤ zl) (hle : run ≤ 14) :
    ∃ w, runWord zl run = some w := by
  have hall : ∀ k ∈ List.range 8, ∀ run ∈ List.range 15, 1 ≤ k → run ≤ k ∨ k = 7 →
      (wordIn runRows run (k - 1)).isSome := by
    decide +kernel
  exact Option.isSome_iff_exists.mp
    (hall (min zl 7) (List.mem_range.mpr (by omega)) run (List.mem_range.mpr (by omega)) (by omega) (by omega))

theorem length_le_of_falls {p : Nat} {ps : List Nat} (h : (p :: ps).Pairwise (· > ·)) : ps.length ≤ p := by
  induction ps generalizing p with
  | nil => exact Nat.zero_le _
  | cons q ps ih =>
    obtain ⟨hp, hps⟩ := List.pairwise_cons.mp h
    have hq := ih hps
    have hqp := hp q List.mem_cons_self
    rw [List.length_cons]
    omega

/-- Below falling scan indices every run has a codeword. -/
theorem exists_runWords {p : Nat} {ps : List Nat} (h : (p :: ps).Pairwise (· > ·)) (hp : p ≤ 15) :
    ∃ code, runWords (p - ps.length) (p :: ps) = some code := by
  induction ps generalizing p with
  | nil => exact ⟨[], rfl⟩
  | cons q ps ih =>
    obtain ⟨hfalls, hps⟩ := List.pairwise_cons.mp h
    have hqp := hfalls q List.mem_cons_self
    have hq := length_le_of_falls hps
    obtain hzl | hzl := Nat.eq_zero_or_pos (p - (q :: ps).length)
    · exact ⟨[], by rw [hzl, runWords_zero]⟩
    · rw [List.length_cons] at hzl ⊢
      obtain ⟨w, hw⟩ := exists_runWord (run := p - q - 1) hzl (by omega) (by omega)
      obtain ⟨rest, hrest⟩ := ih hps (by omega)
      rw [show q - ps.length = p - (ps.length + 1) - (p - q - 1) by omega] at hrest
      exact ⟨_, (runWords_cons_eq_some hzl).mpr ⟨w, rest, hw, hrest, rfl⟩⟩

/-- The highest scan index of a block, and the zeros below it. -/
theorem placesOf_eq_cons {coeff : List Int} (h : totalCoeff coeff ≠ 0) :
    ∃ p ps, placesOf coeff = p :: ps ∧ p < coeff.length ∧ ps.length + 1 = totalCoeff coeff ∧
      zerosOf coeff = p - ps.length := by
  have hlen := length_placesOf coeff
  obtain ⟨p, ps, hps⟩ := List.exists_cons_of_length_pos (l := placesOf coeff) (by omega)
  rw [hps, List.length_cons] at hlen
  refine ⟨p, ps, hps, (mem_placesOf.mp (by rw [hps]; exact List.mem_cons_self)).1, hlen, ?_⟩
  rw [zerosOf, hps, List.headD_cons]
  omega

theorem exists_zerosCode {coeff : List Int} {mnc : Mnc} (h : coeff.length = (blockOrder mnc).length) :
    ∃ code, zerosCode coeff mnc = some code := by
  by_cases hnone : totalCoeff coeff = 0 ∨ (blockOrder mnc).length ≤ totalCoeff coeff
  · exact ⟨[], zerosCode_of_noZeros hnone⟩
  · obtain ⟨hpos, hlt⟩ := not_or.mp hnone
    obtain ⟨p, ps, hps, hp, hlen, hzeros⟩ := placesOf_eq_cons hpos
    have hfalls := placesOf_falls coeff
    rw [hps] at hfalls
    have hle := length_blockOrder_le mnc
    obtain ⟨w, hw⟩ := exists_zerosWord (mnc := mnc) (tc := totalCoeff coeff) (tz := zerosOf coeff) (by omega) (by
      have := length_le_of_falls hfalls
      omega) (by omega)
    obtain ⟨rest, hrest⟩ := exists_runWords hfalls (by omega)
    rw [← hzeros, ← hps] at hrest
    exact ⟨_, (zerosCode_eq_some hpos (by omega)).mpr ⟨w, rest, hw, hrest, rfl⟩⟩

/-- Chroma DC has its own context, and every other block one from 0 up (42_cavlc.md R284). -/
theorem context_of_ready {s : State} {mnc : Mnc} {plane : Option Plane} {ncsel wb : Bool} {bx byy : Two} {nC : Int}
    (h : s.contextReady mnc plane ncsel bx byy wb nC) : (mnc = .m4 ∧ nC = -1) ∨ (mnc ≠ .m4 ∧ 0 ≤ nC) := by
  obtain ⟨hfields, -, hnone, hreg, hgrid⟩ := h
  cases plane with
  | none =>
    simp only [cavlcFieldsOk, Bool.and_eq_true, decide_eq_true_eq] at hfields
    exact .inl ⟨hfields.1.1.1.1, hnone rfl⟩
  | some p =>
    simp only [cavlcFieldsOk, Bool.and_eq_true, Bool.not_eq_true', decide_eq_false_iff_not] at hfields
    refine .inr ⟨hfields.1, ?_⟩
    cases ncsel with
    | true =>
      rw [hreg p rfl rfl]
      exact Int.natCast_nonneg _
    | false =>
      obtain ⟨n, -, rfl⟩ := hgrid p rfl rfl
      exact Int.natCast_nonneg _

theorem exists_tokenWord {mnc : Mnc} {nC : Int} {tc t1 : Nat}
    (hcontext : (mnc = .m4 ∧ nC = -1) ∨ (mnc ≠ .m4 ∧ 0 ≤ nC)) (htc : tc ≤ (blockOrder mnc).length) (ht1 : t1 ≤ 3)
    (hle : t1 ≤ tc) : ∃ w, tokenWord nC (tc, t1) = some w := by
  have hdc : ∀ tc ∈ List.range 5, ∀ t1 ∈ List.range 4, t1 ≤ tc → (wordIn tokenRowsDc tc t1).isSome := by
    decide +kernel
  have hall : ∀ tc ∈ List.range 17, ∀ t1 ∈ List.range 4, t1 ≤ tc → (wordIn tokenRows0 tc t1).isSome ∧
      (wordIn tokenRows2 tc t1).isSome ∧ (wordIn tokenRows4 tc t1).isSome ∧ (fixedToken tc t1).isSome := by
    decide +kernel
  have hmnc := length_blockOrder_le mnc
  rw [← Option.isSome_iff_exists]
  refine tokenWord_of_rows (P := fun w => w.isSome) (fun hneg => ?_) fun _ =>
    hall tc (List.mem_range.mpr (by omega)) t1 (List.mem_range.mpr (by omega)) hle
  obtain ⟨rfl, -⟩ := hcontext.resolve_right fun h => by omega
  exact hdc tc (List.mem_range.mpr (Nat.lt_succ_of_le htc)) t1 (List.mem_range.mpr (by omega)) hle

/-- A block of levels up to 2063 in magnitude has a code (42_cavlc.md R313). -/
theorem exists_blockCode {coeff : List Int} {mnc : Mnc} {nC : Int}
    (hcontext : (mnc = .m4 ∧ nC = -1) ∨ (mnc ≠ .m4 ∧ 0 ≤ nC)) (hlen : coeff.length = (blockOrder mnc).length)
    (h : ∀ c ∈ coeff, c.natAbs ≤ 2063) :
    ∃ code, blockCode coeff nC mnc = some code := by
  have hones := onesOf_le coeff
  obtain ⟨token, htoken⟩ := exists_tokenWord hcontext (hlen ▸ totalCoeff_le coeff) hones.1 hones.2
  obtain ⟨rest, hrest⟩ := exists_levelWords (sl := firstSuffixLength (totalCoeff coeff) (onesOf coeff))
    (decide (onesOf coeff < 3)) (ls := (levelsOf coeff).drop (onesOf coeff)) fun l hl => h l <| by
      have hmem := List.mem_of_mem_drop hl
      rw [levelsOf_eq_filter, List.mem_reverse] at hmem
      exact List.mem_of_mem_filter hmem
  obtain ⟨zeros, hzeros⟩ := exists_zerosCode hlen
  exact ⟨_, blockCode_eq_some.mpr ⟨token, rest, zeros, htoken, hrest, hzeros, rfl⟩⟩

end Sys2Proof.Machine
end

section
/-! The CAVLC commands on a state whose context is ready: the elements of the scan, the write-back, and `CAVLCENC`
(42_cavlc.md R309, R316). -/

namespace Sys2Proof.Machine

/-! The scan positions of a block (41_zigzag.md R264). -/

/-- The raster index of an element. -/
def rasterOf (rc : Fin 4 × Fin 4) : Nat := 4 * rc.1.val + rc.2.val

theorem scanPos_eq (mnc : Mnc) : scanPos mnc = (blockOrder mnc).map rasterOf := by cases mnc <;> decide

theorem nodup_blockOrder (mnc : Mnc) : (blockOrder mnc).Nodup := by cases mnc <;> decide

theorem rasterOf_injective : Function.Injective rasterOf := by
  rintro ⟨r, c⟩ ⟨r', c'⟩ h
  simp only [rasterOf] at h
  exact Prod.ext (Fin.ext (by simp only; omega)) (Fin.ext (by simp only; omega))

section
variable {s : State} {slot : Slot} {mnc : Mnc}

/-- The elements of the scan, when they have been written. -/
theorem readEach_scanPos {coeff : List Int} (hlen : coeff.length = (blockOrder mnc).length)
    (h : ∀ k (h : k < (blockOrder mnc).length),
      s.elemIs slot (blockOrder mnc)[k].1 (blockOrder mnc)[k].2 (coeff.getD k 0)) :
    readEach (readElem s slot) (scanPos mnc) = .ok coeff := by
  rw [readEach_eq_ok, scanPos_eq, List.forall₂_iff_get]
  refine ⟨by rw [List.length_map, hlen], fun k hk hk' => ?_⟩
  have hread := readElem_raster_eq_ok.mpr (h k (by simpa using hk))
  rw [List.getD_eq_getElem _ _ hk'] at hread
  simpa [rasterOf] using hread

theorem readEach_scanPos_of_unwritten (h : ∃ rc ∈ blockOrder mnc, s.elemUnwritten slot rc.1 rc.2) :
    readEach (readElem s slot) (scanPos mnc) = .error (.fault .undefinedRead) := by
  obtain ⟨rc, hmem, hrc⟩ := h
  refine readEach_readElem_of_unwritten ⟨rc.1, rc.2, ?_, hrc⟩
  rw [scanPos_eq]
  exact List.mem_map_of_mem (f := rasterOf) hmem

/-- Every element of the scan has been written, or one has not. -/
theorem exists_coeff_or_unwritten (s : State) (slot : Slot) (mnc : Mnc) :
    (∃ coeff : List Int, coeff.length = (blockOrder mnc).length ∧ ∀ k (h : k < (blockOrder mnc).length),
      s.elemIs slot (blockOrder mnc)[k].1 (blockOrder mnc)[k].2 (coeff.getD k 0)) ∨
    ∃ rc ∈ blockOrder mnc, s.elemUnwritten slot rc.1 rc.2 := by
  by_cases h : ∃ rc ∈ blockOrder mnc, s.elemUnwritten slot rc.1 rc.2
  · exact .inr h
  · have hwritten : ∀ k (h : k < (blockOrder mnc).length),
        ∃ x, s.elemIs slot (blockOrder mnc)[k].1 (blockOrder mnc)[k].2 x := fun k hk => by
      obtain ⟨v, hv⟩ := Option.ne_none_iff_exists'.mp fun hnone => h ⟨_, List.getElem_mem hk, hnone⟩
      exact ⟨v.toInt, v, hv, rfl⟩
    choose x hx using hwritten
    refine .inl ⟨List.ofFn fun i : Fin (blockOrder mnc).length => x i i.isLt, List.length_ofFn, fun k hk => ?_⟩
    rw [List.getD_eq_getElem _ _ (by simpa using hk), List.getElem_ofFn]
    exact hx k hk

end

/-! The results of a CAVLC command (42_cavlc.md R309). -/

/-- The results but for the stream: `RES`, `CVSTAT`, and with `wb` the block's cell. -/
theorem cavlcResults_eq_contextWritten {s t : State} (hncg : t.ncg = s.ncg) (hmbpos : t.mbpos = s.mbpos)
    (plane : Option Plane) (wb : Bool) (bx byy : Two) (n tc t1 : Nat) :
    ∃ m, cavlcResults t plane wb bx byy n tc t1
        = { t with res := BitVec.ofNat 32 tc, cvstat := cvstatOf n t1 tc, ncg := m } ∧
      contextWritten s { s with ncg := m } plane bx byy wb tc := by
  match plane, wb with
  | none, _ => exact ⟨t.ncg, rfl, fun _ hp => absurd hp (by simp), fun k _ => congrArg (cellRead · k) hncg⟩
  | some _, false => exact ⟨t.ncg, rfl, fun _ _ hwb => absurd hwb (by simp), fun k _ => congrArg (cellRead · k) hncg⟩
  | some p, true =>
    have hkey : ncKey p (cellX t p bx.toNat) (cellY t p byy.toNat) = ncKey p (cellX s p bx.toNat) (cellY s p byy.toNat) := by
      simp only [cellX, cellY, mbx, mby, hmbpos]
    refine ⟨cellWrite (ncKey p (cellX t p bx.toNat) (cellY t p byy.toNat)) ⟨true, tc⟩ t.ncg, rfl, fun q hq _ => ?own,
      fun k hk => ?others⟩
    case own =>
      obtain rfl := Option.some.inj hq
      rw [hkey]
      exact cellRead_cellWrite_self _ _ _
    case others =>
      rw [hkey, hncg]
      exact cellRead_cellWrite_of_ne (hk p rfl rfl).symm _ _

theorem toNat_cvstatOf {n t1 tc : Nat} (hn : n ≤ 1000) (ht1 : t1 ≤ 3) (htc : tc ≤ 16) :
    (cvstatOf n t1 tc).toNat = n * 2 ^ 16 + t1 * 2 ^ 8 + tc :=
  toNat_ofNat_of_lt (by omega)

/-! `CAVLCENC`. -/

/-- `t` is `s` after `CAVLCENC` wrote the code of `coeff` at `BITPOS`, reported it, and completed (42_cavlc.md R309, R316). -/
def blockWritten (s t : State) (plane : Option Plane) (bx byy : Two) (wb : Bool) (coeff : List Int) (code : List Bool) :
    Prop :=
  t.streamHolds s.bitpos.toNat code ∧
  (∀ k, k < s.bitpos.toNat ∨ s.bitpos.toNat + code.length ≤ k → cellRead t.bsb k = cellRead s.bsb k) ∧
  t.bitpos.toNat = s.bitpos.toNat + code.length ∧
  t.bitlen.toNat = max s.bitlen.toNat (s.bitpos.toNat + code.length) ∧
  t.res.toNat = totalCoeff coeff ∧
  t.cvstat.toNat = code.length * 2 ^ 16 + onesOf coeff * 2 ^ 8 + totalCoeff coeff ∧
  contextWritten s t plane bx byy wb (totalCoeff coeff) ∧ t.busy = false ∧ t.done = true ∧
  { t with bsb := s.bsb, bitpos := s.bitpos, bitlen := s.bitlen, res := s.res, cvstat := s.cvstat, ncg := s.ncg,
           busy := s.busy, done := s.done } = s

section
variable {s : State} {slot : Slot} {mnc : Mnc} {plane : Option Plane} {ncsel wb : Bool} {bx byy : Two} {nC : Int}
  {coeff : List Int}

/-- The command, once its context and the elements of the scan are read. -/
theorem exec_cavlcenc_of_ready (hready : s.contextReady mnc plane ncsel bx byy wb nC)
    (hlen : coeff.length = (blockOrder mnc).length)
    (hread : readEach (readElem s slot) (scanPos mnc) = .ok coeff) :
    exec (.cavlcenc slot mnc plane ncsel bx byy wb) s = runCommand s (
      match blockCode coeff nC mnc with
      | none => .error (.raise .invalidFieldValue (here s))
      | some code => do
        let t ← writeBits s code
        pure (cavlcResults t plane wb bx byy code.length (totalCoeff coeff) (onesOf coeff))) := by
  rw [exec, execCavlcenc, cavlcContext_of_ready hready, ok_bind, hread, ok_bind, encodeBlock_eq nC hlen]
  cases blockCode coeff nC mnc <;> rfl

/-- The command that completes: the code in the stream, and the results. -/
theorem exec_cavlcenc_of_fits (hwf : s.params.wf = true) (hready : s.contextReady mnc plane ncsel bx byy wb nC)
    (hlen : coeff.length = (blockOrder mnc).length) (hread : readEach (readElem s slot) (scanPos mnc) = .ok coeff)
    {code : List Bool} (hcode : blockCode coeff nC mnc = some code)
    (hfit : s.bitpos.toNat + code.length ≤ 8 * s.params.bsbBytes) :
    ∃ t, exec (.cavlcenc slot mnc plane ncsel bx byy wb) s = .next t ∧ blockWritten s t plane bx byy wb coeff code := by
  have hmnc := length_blockOrder_le mnc
  have htc := totalCoeff_le coeff
  obtain ⟨m, hresults, hcontext⟩ := cavlcResults_eq_contextWritten (s := s) (t := putBits s code) rfl rfl plane wb bx byy
    code.length (totalCoeff coeff) (onesOf coeff)
  obtain ⟨hbits, hothers, hpos, hbitlen, -⟩ := streamWritten_of_fits hwf hfit
  refine ⟨complete { putBits s code with
        res := BitVec.ofNat 32 (totalCoeff coeff)
        cvstat := cvstatOf code.length (onesOf coeff) (totalCoeff coeff)
        ncg := m },
    ?_, hbits, hothers, hpos, hbitlen, toNat_ofNat_of_lt (by omega),
    toNat_cvstatOf (length_blockCode (hlen ▸ hmnc) hcode).2 (onesOf_le coeff).1 (by omega), hcontext, rfl, rfl, rfl⟩
  rw [exec_cavlcenc_of_ready hready hlen hread, hcode]
  dsimp only
  rw [writeBits_eq_ok.mpr ⟨hfit, rfl⟩, ok_bind, pure_eq_ok, runCommand_ok, hresults]

end

/-- Settles O39: the encoder's code is that of the rules, and the write that fits or not ends the command. -/
theorem cavlcencWritesTheBlock : Obligations.CavlcencWritesTheBlock := by
  intro s slot mnc plane ncsel bx byy wb nC hwf hready
  refine ⟨fun coeff hlen helem => ?_, fun hunwritten => ?fault⟩
  case fault =>
    rw [exec, execCavlcenc, cavlcContext_of_ready hready, ok_bind, readEach_scanPos_of_unwritten hunwritten, error_bind,
      runCommand_fault]
  have hread := readEach_scanPos hlen helem
  have hexec := exec_cavlcenc_of_ready hready hlen hread
  refine ⟨fun code hcode => ⟨exec_cavlcenc_of_fits hwf hready hlen hread hcode, fun hfull => ?full⟩, fun hnone => ?noCode,
    fun hle => ?hasCode⟩
  case full =>
    rw [hexec, hcode]
    dsimp only
    rw [writeBits_of_not (Nat.not_le.mpr hfull), error_bind, runCommand_raise, here]
  case noCode =>
    rw [hexec, hnone]
    dsimp only
    rw [runCommand_raise, here]
  case hasCode =>
    obtain ⟨code, hcode⟩ := exists_blockCode (context_of_ready hready) hlen hle
    exact ⟨code, hcode, length_blockCode (hlen ▸ length_blockOrder_le mnc) hcode⟩

end Sys2Proof.Machine
end

section
/-! Reading the elements of a block (42_cavlc.md R293 .. R305): each reader of the model is the reading of the statements'
vocabulary. -/

namespace Sys2Proof.Machine

section
variable {α β : Type}

/-- Two ways to go on from a part of a command agree where they agree on its answers. -/
theorem bind_congr_ok {x : Cmd α} {f g : α → Cmd β} (h : ∀ a, x = .ok a → f a = g a) : x >>= f = x >>= g := by
  cases x with
  | ok a => exact h a rfl
  | error e => rfl

end

section
variable {s : State} {pos : Nat}

/-! Fields of bits. -/

theorem fieldValue_eq_bitsValue (bs : List Bool) : fieldValue bs = bitsValue bs := by
  induction bs with
  | nil => rfl
  | cons b bs ih =>
    rw [fieldValue, bitsValue_cons, ih]
    cases b <;> simp

/-- The first bits of the stream, when each of them is written. -/
theorem streamHolds_take_bitsFrom {n : Nat} (h : none ∉ (s.bitsFrom pos).take n) :
    s.streamHolds pos (((s.bitsFrom pos).take n).map (·.getD false)) := by
  intro i hi
  rw [List.length_map] at hi
  have hmem : ((s.bitsFrom pos).take n)[i] ≠ none := fun hnone => h (hnone ▸ List.getElem_mem hi)
  have hread : ((s.bitsFrom pos).take n)[i] = cellRead s.bsb (pos + i) := by simp [State.bitsFrom]
  rw [List.getElem_map, hread]
  rw [hread] at hmem
  obtain ⟨b, hb⟩ := Option.ne_none_iff_exists'.mp hmem
  rw [hb, Option.getD_some]

/-- A field of `n` bits at `pos`, of a syntax element that began at `start` (40_bitstream.md R220). -/
theorem readField_eq (start : Nat) {n : Nat} (hpos : pos ≤ s.bitlen.toNat) :
    (needBits s start pos n >>= fun _ => streamBits s pos n) =
      if ((s.bitsFrom pos).take n).length < n then .error (.raise .bitstreamExhausted start)
      else if none ∈ (s.bitsFrom pos).take n then .error (.fault .undefinedRead)
      else .ok (fieldValue (((s.bitsFrom pos).take n).map (·.getD false))) := by
  have hlength : ((s.bitsFrom pos).take n).length = min n (s.bitlen.toNat - pos) := by
    rw [List.length_take, length_bitsFrom]
  split_ifs with hend hnone
  · rw [needBits_of_not (by omega), error_bind]
  · obtain ⟨i, hi, -, hbit⟩ := none_mem_take_bitsFrom.mp hnone
    rw [needBits_eq_ok (u := ()).mpr (by omega), ok_bind, streamBits_of_unwritten ⟨i, hi, hbit⟩]
  · have hread := streamBits_of_holds (streamHolds_take_bitsFrom hnone)
    rw [List.length_map, show ((s.bitsFrom pos).take n).length = n by omega] at hread
    rw [needBits_eq_ok (u := ()).mpr (by omega), ok_bind, hread, fieldValue_eq_bitsValue]

/-! The level_prefix of a level (42_cavlc.md R295). -/

/-- The zeros that the stream begins with. -/
def zerosAt (bs : List (Option Bool)) : Nat := (bs.takeWhile (· = some false)).length

theorem zerosAt_le (bs : List (Option Bool)) : zerosAt bs ≤ bs.length :=
  (List.takeWhile_sublist _).length_le

theorem getElem_of_lt_zerosAt {bs : List (Option Bool)} {i : Nat} (hi : i < zerosAt bs) :
    bs[i]'(hi.trans_le (zerosAt_le bs)) = some false := by
  have hbit := List.mem_takeWhile_imp (List.getElem_mem hi)
  rw [decide_eq_true_eq] at hbit
  exact ((List.takeWhile_prefix _).getElem hi).symm.trans hbit

theorem getD_zerosAt (bs : List (Option Bool)) : bs.getD (zerosAt bs) none ≠ some false := by
  induction bs with
  | nil => simp
  | cons b bs ih =>
    by_cases hb : b = some false
    · rw [zerosAt, List.takeWhile_cons_of_pos (by simpa using hb), List.length_cons, List.getD_cons_succ]
      exact ih
    · rw [zerosAt, List.takeWhile_cons_of_neg (by simpa using hb), List.length_nil, List.getD_cons_zero]
      exact hb

theorem getD_bitsFrom {i : Nat} (hi : pos + i < s.bitlen.toNat) :
    (s.bitsFrom pos).getD i none = cellRead s.bsb (pos + i) := by
  rw [List.getD_eq_getElem _ _ (by rw [length_bitsFrom]; omega)]
  simp [State.bitsFrom]

theorem streamHolds_zeros {n : Nat} (hn : n ≤ zerosAt (s.bitsFrom pos)) : s.streamHolds pos (List.replicate n false) := by
  intro i hi
  rw [List.length_replicate] at hi
  have hbit := getElem_of_lt_zerosAt (hi.trans_le hn)
  simpa [State.bitsFrom] using hbit

/-- The scan for the 1 of a level_prefix of at most 15 zeros. -/
theorem countZeros_level (s : State) (pos : Nat) :
    countZeros s pos 16 pos 0 =
      if 16 ≤ zerosAt (s.bitsFrom pos) then .error (.raise .malformedVlcCode pos)
      else if (s.bitsFrom pos).length ≤ zerosAt (s.bitsFrom pos) then .error (.raise .bitstreamExhausted pos)
      else if (s.bitsFrom pos).getD (zerosAt (s.bitsFrom pos)) none = none then .error (.fault .undefinedRead)
      else .ok (zerosAt (s.bitsFrom pos), pos + zerosAt (s.bitsFrom pos) + 1) := by
  have hle := zerosAt_le (s.bitsFrom pos)
  rw [length_bitsFrom] at hle ⊢
  by_cases hmany : 16 ≤ zerosAt (s.bitsFrom pos)
  · rw [if_pos hmany]
    exact countZeros_of_zeros pos 0 16 (streamHolds_zeros hmany) (by omega)
  rw [if_neg hmany]
  have hscan : countZeros s pos 16 pos 0
      = countZeros s pos (15 - zerosAt (s.bitsFrom pos) + 1) (pos + zerosAt (s.bitsFrom pos)) (zerosAt (s.bitsFrom pos)) := by
    obtain hzero | hpos := Nat.eq_zero_or_pos (zerosAt (s.bitsFrom pos))
    · rw [hzero]
      rfl
    · have h := countZeros_of_zeros pos (15 - zerosAt (s.bitsFrom pos) + 1) _ (zeros := 0)
        (streamHolds_zeros (s := s) (pos := pos) (Nat.le_refl _)) (by omega)
      rwa [show 15 - zerosAt (s.bitsFrom pos) + 1 + zerosAt (s.bitsFrom pos) = 16 by omega, Nat.zero_add] at h
  have hbit := getD_zerosAt (s.bitsFrom pos)
  rw [hscan]
  split_ifs with hend hnone
  · exact countZeros_of_end _ _ _ (by omega)
  · rw [getD_bitsFrom (by omega)] at hnone
    exact countZeros_of_unwritten _ _ _ (by omega) hnone
  · rw [getD_bitsFrom (by omega)] at hnone hbit
    refine countZeros_of_one _ _ _ (by omega) ?_
    obtain ⟨b, hb⟩ := Option.ne_none_iff_exists'.mp hnone
    rw [hb] at hbit ⊢
    cases b with
    | false => exact absurd rfl hbit
    | true => rfl

/-! Levels (42_cavlc.md R293 .. R298). -/

theorem suffixSize_eq (zeros sl : Nat) : suffixSize zeros sl = suffixBits zeros sl := by
  unfold suffixSize suffixBits
  split_ifs <;> omega

theorem levelOfCode_eq {zeros : Nat} (hzeros : zeros ≤ 15) (sl x : Nat) (after : Bool) :
    levelOfCode (levelCodeOf zeros sl x after) = levelValue zeros sl x after := by
  have hcode : levelCodeOf zeros sl x after
      = zeros <<< sl + x + (if zeros = 15 ∧ sl = 0 then 15 else 0) + if after then 2 else 0 := by
    rw [levelCodeOf, Nat.min_eq_right hzeros, Nat.shiftLeft_eq]
  rw [hcode, levelValue]
  generalize zeros <<< sl + x + (if zeros = 15 ∧ sl = 0 then 15 else 0) + (if after then 2 else 0) = k
  unfold levelOfCode
  split_ifs <;> omega

theorem levelAt_eq (sl : Nat) (after : Bool) (bs : List (Option Bool)) :
    levelAt sl after bs =
      if 16 ≤ zerosAt bs then .error .malformedVlcCode
      else if bs.length ≤ zerosAt bs then .error .bitstreamExhausted
      else if bs.getD (zerosAt bs) none = none then .unwritten
      else if ((bs.drop (zerosAt bs + 1)).take (suffixBits (zerosAt bs) sl)).length < suffixBits (zerosAt bs) sl then
        .error .bitstreamExhausted
      else if none ∈ (bs.drop (zerosAt bs + 1)).take (suffixBits (zerosAt bs) sl) then .unwritten
      else .value (levelValue (zerosAt bs) sl
          (fieldValue (((bs.drop (zerosAt bs + 1)).take (suffixBits (zerosAt bs) sl)).map (·.getD false))) after)
        (zerosAt bs + 1 + suffixBits (zerosAt bs) sl) := rfl

/-- The level_prefix, then the suffix of its size. -/
theorem readLevel_eq (sl : Nat) (after : Bool) :
    readLevel s sl after pos = (levelAt sl after (s.bitsFrom pos)).from pos := by
  have hsteps : readLevel s sl after pos = countZeros s pos 16 pos 0 >>= fun r =>
      (needBits s pos r.2 (suffixBits r.1 sl) >>= fun _ => streamBits s r.2 (suffixBits r.1 sl)) >>= fun x =>
        .ok (levelOfCode (levelCodeOf r.1 sl x after), r.2 + suffixBits r.1 sl) := by
    simp only [readLevel, suffixSize_eq, bind_assoc, pure_eq_ok]
  have hle := zerosAt_le (s.bitsFrom pos)
  have hlength := length_bitsFrom s pos
  rw [hsteps, countZeros_level, levelAt_eq, drop_bitsFrom]
  generalize zerosAt (s.bitsFrom pos) = zeros at hle ⊢
  by_cases hmany : 16 ≤ zeros
  · rw [if_pos hmany, if_pos hmany]
    rfl
  rw [if_neg hmany, if_neg hmany]
  by_cases hend : (s.bitsFrom pos).length ≤ zeros
  · rw [if_pos hend, if_pos hend]
    rfl
  rw [if_neg hend, if_neg hend]
  by_cases hnone : (s.bitsFrom pos).getD zeros none = none
  · rw [if_pos hnone, if_pos hnone]
    rfl
  rw [if_neg hnone, if_neg hnone, ok_bind, ← Nat.add_assoc, readField_eq pos (by omega)]
  split_ifs
  · rfl
  · rfl
  · rw [ok_bind, levelOfCode_eq (by omega), Reading.from_value, Nat.add_assoc, Nat.add_assoc, Nat.add_assoc]

theorem signAt_from_eq :
    (signAt (s.bitsFrom pos)).from pos = needBits s pos pos 1 >>= fun _ => streamBit s pos >>= fun b =>
      .ok ((if b then -1 else 1), pos + 1) := by
  by_cases hend : pos < s.bitlen.toNat
  · rw [bitsFrom_cons hend, needBits_eq_ok (u := ()).mpr hend, ok_bind, streamBit]
    cases cellRead s.bsb pos <;> rfl
  · rw [bitsFrom_nil (by omega), needBits_of_not (by omega)]
    rfl

theorem readLevels_of_lt {t1 i : Nat} (h : t1 < i) (n sl : Nat) :
    readLevels s t1 n i sl pos = s.levelsFrom n sl false pos := by
  induction n generalizing i sl pos with
  | zero => rfl
  | succ n ih =>
    have hlast : decide (i = t1 ∧ t1 < 3) = false := by simp; omega
    rw [readLevels, if_neg (by omega), hlast, readLevel_eq, State.levelsFrom]
    refine bind_congr_ok fun r _ => ?_
    dsimp only
    rw [ih (by omega), suffixNext_eq]
    rfl

/-- The levels after the trailing ones; the first of them follows fewer than three. -/
theorem readLevels_self (t1 n sl : Nat) :
    readLevels s t1 n t1 sl pos = s.levelsFrom n sl (decide (t1 < 3)) pos := by
  cases n with
  | zero => rfl
  | succ n =>
    rw [readLevels, if_neg (Nat.lt_irrefl _), State.levelsFrom, readLevel_eq]
    simp only [true_and]
    refine bind_congr_ok fun r _ => ?_
    rw [readLevels_of_lt (Nat.lt_succ_self _), suffixNext_eq]
    rfl

/-- The signs of the trailing ones, then the other levels. -/
theorem readLevels_eq {t1 i j : Nat} (hij : i + j = t1) (n sl : Nat) :
    readLevels s t1 (j + n) i sl pos = s.signsFrom j pos >>= fun r =>
      s.levelsFrom n sl (decide (t1 < 3)) r.2 >>= fun r' => .ok (r.1 ++ r'.1, r'.2) := by
  induction j generalizing i pos with
  | zero =>
    obtain rfl : i = t1 := hij
    rw [Nat.zero_add, readLevels_self, State.signsFrom, ok_bind]
    cases s.levelsFrom n sl (decide (i < 3)) pos <;> rfl
  | succ j ih =>
    rw [Nat.add_right_comm, readLevels, if_pos (by omega), State.signsFrom, signAt_from_eq]
    simp only [bind_assoc, ok_bind, pure_eq_ok, ih (show i + 1 + j = t1 by omega), List.cons_append]

/-! Zeros and runs (42_cavlc.md R299, R303, R304). -/

theorem require_decide_bind {p : Prop} [Decidable p] {e : ErrCode} {info : Nat} {α : Type} (c : Cmd α) :
    (require (decide p) e info >>= fun _ => c) = if p then c else raise e info := by
  by_cases hp : p <;> simp [hp]

theorem readTotalZeros_eq (mnc : Mnc) {tc : Nat} (htc : 1 ≤ tc) :
    readTotalZeros s mnc tc pos = s.zerosFrom mnc tc pos := by
  rw [readTotalZeros, State.zerosFrom, ← length_blockOrder]
  by_cases hlt : tc < (blockOrder mnc).length
  · rw [if_pos hlt, if_neg (by omega), vlcRead_eq_codewordAt (isCode_tzTable htc hlt) (isPrinted_tzTable htc hlt)]
    refine bind_congr_ok fun r _ => ?_
    dsimp only
    rw [require_decide_bind, ← ite_not]
    exact if_congr (by omega) rfl rfl
  · rw [if_neg hlt, if_pos (by omega)]
    rfl

theorem runsFrom_noZeros (s : State) (n pos : Nat) :
    s.runsFrom (n + 1) 0 pos = .ok (List.replicate (n + 1) 0, pos) := by
  cases n <;> rfl

theorem readRuns_eq (s : State) : ∀ n zl pos, readRuns s n zl pos = s.runsFrom n zl pos
  | 0, _, _ => rfl
  | 1, zl, _ => by cases zl <;> rfl
  | n + 2, 0, pos => by
    rw [readRuns, if_neg (Nat.lt_irrefl 0), readRuns_eq s (n + 1) 0 pos, runsFrom_noZeros, runsFrom_noZeros]
    rfl
  | n + 2, zl + 1, pos => by
    rw [readRuns, if_pos (Nat.succ_pos zl), State.runsFrom,
      vlcRead_eq_codewordAt (isCode_runBefore (Nat.succ_pos zl)) (isPrinted_runBefore (Nat.succ_pos zl))]
    refine bind_congr_ok fun r _ => ?_
    dsimp only
    rw [require_decide_bind, ← ite_not, readRuns_eq s (n + 1)]
    exact if_congr (by omega) rfl rfl

/-! The whole block (42_cavlc.md R308). -/

/-- TotalCoeff and TrailingOnes of a coeff_token (42_cavlc.md R287 .. R291). -/
theorem tokenWord_bounds {nC : Int} {tc t1 : Nat} {w : List Bool} (h : tokenWord nC (tc, t1) = some w) :
    t1 ≤ 3 ∧ t1 ≤ tc := by
  have hmem := (isPrinted_ctTable nC).2.1 (tc, t1) (by rw [h]; exact Option.some_ne_none w)
  have hrows : ∀ v ∈ tokenValues, ¬v.2 ≤ v.1 →
      wordIn tokenRowsDc v.1 v.2 = none ∧ wordIn tokenRows0 v.1 v.2 = none ∧ wordIn tokenRows2 v.1 v.2 = none ∧ wordIn tokenRows4 v.1 v.2 = none ∧ fixedToken v.1 v.2 = none := by decide +kernel
  refine ⟨Nat.le_of_lt_succ (mem_tokenValues.mp hmem).2, ?_⟩
  by_contra hle
  obtain ⟨hdc, hcontexts⟩ := hrows (tc, t1) hmem hle
  have hnone : tokenWord nC (tc, t1) = none := tokenWord_of_rows (P := fun w => w = none) (fun _ => hdc) fun _ => hcontexts
  rw [hnone] at h
  cases h

/-- The model's block of a block that was read. -/
def BlockRead.decoded (b : BlockRead) : CavlcBlock :=
  { coeff := reassemble b.levels b.runs, tc := b.levels.length, t1 := b.ones, pos := b.stop }

/-- What follows the coeff_token of a block with coefficients (42_cavlc.md R308). -/
def coeffsAfter (s : State) (mnc : Mnc) (tc t1 pos : Nat) : Cmd BlockRead :=
  s.signsFrom t1 pos >>= fun signs =>
    s.levelsFrom (tc - t1) (firstSuffixLength tc t1) (decide (t1 < 3)) signs.2 >>= fun levels =>
      s.zerosFrom mnc tc levels.2 >>= fun tz =>
        s.runsFrom tc tz.1 tz.2 >>= fun runs => .ok ⟨signs.1 ++ levels.1, runs.1, t1, runs.2⟩

theorem blockAt_eq (s : State) (nC : Int) (mnc : Mnc) :
    s.blockAt nC mnc =
      (codewordAt (tokenWord nC) tokenValues (s.bitsFrom s.bitpos.toNat)).from s.bitpos.toNat >>= fun r =>
        if (blockOrder mnc).length < r.1.1 then raise .invalidFieldValue s.bitpos.toNat
        else if r.1.1 = 0 then .ok ⟨[], [], r.1.2, r.2⟩
        else coeffsAfter s mnc r.1.1 r.1.2 r.2 := rfl

end

/-! What an element that was read is. -/

section
variable {s : State} {pos q : Nat}

theorem length_signsFrom {t : Nat} {ls : List Int} (h : s.signsFrom t pos = .ok (ls, q)) : ls.length = t ∧ q = pos + t ∧
    ∀ l ∈ ls, l.natAbs = 1 := by
  induction t generalizing pos ls with
  | zero =>
    cases h
    simp
  | succ t ih =>
    rw [State.signsFrom, signAt_from_eq] at h
    obtain ⟨⟨l, p⟩, hl, h⟩ := bind_eq_ok.mp h
    obtain ⟨_, -, hl⟩ := bind_eq_ok.mp hl
    obtain ⟨b, -, hl⟩ := bind_eq_ok.mp hl
    cases hl
    dsimp only at h
    obtain ⟨⟨ls', q'⟩, hls, h⟩ := bind_eq_ok.mp h
    cases h
    obtain ⟨hlen, rfl, hones⟩ := ih hls
    refine ⟨by rw [List.length_cons, hlen], by omega, List.forall_mem_cons.mpr ⟨?_, hones⟩⟩
    cases b <;> rfl

theorem fieldValue_lt (bs : List Bool) : fieldValue bs < 2 ^ bs.length := by
  rw [fieldValue_eq_bitsValue]
  exact bitsValue_lt bs

theorem suffixBits_le {zeros sl : Nat} (hsl : sl ≤ 6) : suffixBits zeros sl ≤ 12 := by
  unfold suffixBits
  split_ifs <;> omega

theorem natAbs_levelValue_le {zeros sl x : Nat} (hzeros : zeros ≤ 15) (hsl : sl ≤ 6) (hx : x < 2 ^ 12) (after : Bool) :
    (levelValue zeros sl x after).natAbs ≤ 4096 := by
  have hshift : zeros <<< sl ≤ 15 * 2 ^ 6 := by
    rw [Nat.shiftLeft_eq]
    exact Nat.mul_le_mul hzeros (Nat.pow_le_pow_right Nat.two_pos hsl)
  unfold levelValue
  generalize zeros <<< sl = y at hshift ⊢
  dsimp only
  split_ifs <;> omega

/-- A level that was read has at most 28 bits and a small value. -/
theorem levelAt_from_eq_ok {sl : Nat} (hsl : sl ≤ 6) {after : Bool} {bs : List (Option Bool)} {l : Int}
    (h : (levelAt sl after bs).from pos = .ok (l, q)) : q ≤ pos + 28 ∧ l.natAbs ≤ 4096 := by
  rw [levelAt_eq] at h
  split_ifs at h with hmany
  case neg =>
    cases h
    have hn : suffixBits (zerosAt bs) sl ≤ 12 := suffixBits_le hsl
    refine ⟨by omega, natAbs_levelValue_le (by omega) hsl ((fieldValue_lt _).trans_le ?_) after⟩
    rw [List.length_map]
    exact Nat.pow_le_pow_right Nat.two_pos ((List.length_take_le _ _).trans hn)
  all_goals cases h

theorem length_levelsFrom {n sl : Nat} (hsl : sl ≤ 6) {after : Bool} {ls : List Int}
    (h : s.levelsFrom n sl after pos = .ok (ls, q)) :
    ls.length = n ∧ q ≤ pos + 28 * n ∧ ∀ l ∈ ls, l.natAbs ≤ 4096 := by
  induction n generalizing pos sl after ls with
  | zero =>
    cases h
    simp
  | succ n ih =>
    rw [State.levelsFrom] at h
    obtain ⟨⟨l, p⟩, hl, h⟩ := bind_eq_ok.mp h
    dsimp only at h
    obtain ⟨⟨ls', q'⟩, hls, h⟩ := bind_eq_ok.mp h
    cases h
    obtain ⟨hp, hle⟩ := levelAt_from_eq_ok hsl hl
    obtain ⟨hlen, hq, hall⟩ := ih (nextSuffixLength_le hsl l) hls
    exact ⟨by rw [List.length_cons, hlen], by omega, List.forall_mem_cons.mpr ⟨hle, hall⟩⟩

theorem zerosFrom_eq_ok {mnc : Mnc} {tc tz : Nat} (htc : 1 ≤ tc) (hle : tc ≤ (blockOrder mnc).length)
    (h : s.zerosFrom mnc tc pos = .ok (tz, q)) : tz + tc ≤ (blockOrder mnc).length ∧ q ≤ pos + 9 := by
  rw [State.zerosFrom] at h
  split_ifs at h with hfull
  · cases h
    exact ⟨by omega, by omega⟩
  · obtain ⟨⟨v, p⟩, hv, h⟩ := bind_eq_ok.mp h
    obtain ⟨w, hw, rfl⟩ := codewordAt_eq_ok (isCode_tzTable htc (by omega)) (isPrinted_tzTable htc (by omega)) hv
    have hlen := length_zerosWord htc (by omega) hw
    dsimp only at h
    split_ifs at h with hlarge
    · cases h
    · cases h
      exact ⟨by omega, by omega⟩

theorem runsFrom_eq_ok {n zl : Nat} {rs : List Nat} (h : s.runsFrom (n + 1) zl pos = .ok (rs, q)) :
    rs.length = n + 1 ∧ rs.sum = zl ∧ q ≤ pos + 11 * n := by
  induction n generalizing zl pos rs with
  | zero =>
    obtain ⟨rfl, rfl⟩ : [zl] = rs ∧ pos = q := by cases zl <;> cases h <;> exact ⟨rfl, rfl⟩
    simp
  | succ n ih =>
    cases zl with
    | zero =>
      cases h
      simp
    | succ zl =>
      rw [State.runsFrom] at h
      obtain ⟨⟨r, p⟩, hr, h⟩ := bind_eq_ok.mp h
      obtain ⟨w, hw, rfl⟩ :=
        codewordAt_eq_ok (isCode_runBefore (Nat.succ_pos zl)) (isPrinted_runBefore (Nat.succ_pos zl)) hr
      have hlen := length_runWord (Nat.succ_pos zl) hw
      dsimp only at h
      split_ifs at h with hlarge
      · cases h
      · obtain ⟨⟨rs', q'⟩, hrs, h⟩ := bind_eq_ok.mp h
        cases h
        obtain ⟨hcount, hsum, hq⟩ := ih hrs
        exact ⟨by rw [List.length_cons, hcount], by rw [List.sum_cons, hsum]; omega, by omega⟩

/-- A block with coefficients that was read: its parts and its bounds. -/
structure ReadsCoeffs (mnc : Mnc) (tc t1 pos : Nat) (b : BlockRead) : Prop where
  levels_length : b.levels.length = tc
  runs_length : b.runs.length = tc
  zeros_le : b.runs.sum + tc ≤ (blockOrder mnc).length
  ones_eq : b.ones = t1
  stop_le : b.stop ≤ pos + 900
  levels_le : ∀ l ∈ b.levels, l.natAbs ≤ 4096

theorem coeffsAfter_eq_ok {mnc : Mnc} {tc t1 : Nat} {b : BlockRead} (htc : 1 ≤ tc) (hle : tc ≤ (blockOrder mnc).length)
    (ht1 : t1 ≤ tc) (h : coeffsAfter s mnc tc t1 pos = .ok b) : ReadsCoeffs mnc tc t1 pos b := by
  obtain ⟨⟨signs, p1⟩, hsigns, h⟩ := bind_eq_ok.mp h
  obtain ⟨⟨levels, p2⟩, hlevels, h⟩ := bind_eq_ok.mp h
  obtain ⟨⟨tz, p3⟩, htz, h⟩ := bind_eq_ok.mp h
  obtain ⟨⟨runs, p4⟩, hruns, h⟩ := bind_eq_ok.mp h
  cases h
  have hmnc := length_blockOrder_le mnc
  obtain ⟨n, rfl⟩ : ∃ n, tc = n + 1 := ⟨tc - 1, by omega⟩
  obtain ⟨hslen, rfl, hones⟩ := length_signsFrom hsigns
  obtain ⟨hllen, hp2, hsmall⟩ := length_levelsFrom (firstSuffixLength_le _ _) hlevels
  obtain ⟨hzeros, hp3⟩ := zerosFrom_eq_ok htc hle htz
  obtain ⟨hrlen, rfl, hp4⟩ := runsFrom_eq_ok hruns
  dsimp only at hllen hp2 hp3 hp4 hzeros
  exact {
    levels_length := by simp only [List.length_append]; omega
    runs_length := hrlen
    zeros_le := hzeros
    ones_eq := rfl
    stop_le := by dsimp only; omega
    levels_le := fun l hl => (List.mem_append.mp hl).elim (fun hl => (hones l hl).trans_le (by decide)) (hsmall l) }

/-- A block that was read: TotalCoeff is within the length, a run stands before each level, and the levels are small. -/
theorem blockAt_eq_ok {nC : Int} {mnc : Mnc} {b : BlockRead} (h : s.blockAt nC mnc = .ok b) :
    b.runs.length = b.levels.length ∧ b.runs.sum + b.levels.length ≤ (blockOrder mnc).length ∧ b.ones ≤ 3 ∧
    b.stop ≤ s.bitpos.toNat + 1000 ∧ ∀ l ∈ b.levels, l.natAbs ≤ 4096 := by
  rw [blockAt_eq] at h
  obtain ⟨⟨⟨tc, t1⟩, p⟩, htoken, h⟩ := bind_eq_ok.mp h
  obtain ⟨w, hw, rfl⟩ := codewordAt_eq_ok (isCode_ctTable nC) (isPrinted_ctTable nC) htoken
  have hlen := length_tokenWord hw
  obtain ⟨hones, hle⟩ := tokenWord_bounds hw
  dsimp only at h
  split_ifs at h with hlarge hzero
  · cases h
  · cases h
    exact ⟨rfl, Nat.zero_le _, hones, by dsimp only; omega, by simp⟩
  · have hb := coeffsAfter_eq_ok (by omega) (by omega) hle h
    refine ⟨hb.runs_length.trans hb.levels_length.symm, ?_, hb.ones_eq.trans_le hones, ?_, hb.levels_le⟩
    · rw [hb.levels_length]
      exact hb.zeros_le
    · have := hb.stop_le
      omega

theorem decodeCoeffs_eq {mnc : Mnc} {tc t1 : Nat} (htc : 1 ≤ tc) (ht1 : t1 ≤ tc) :
    decodeCoeffs s mnc tc t1 pos = coeffsAfter s mnc tc t1 pos >>= fun b => .ok b.decoded := by
  have hlevels := readLevels_eq (s := s) (pos := pos) (Nat.zero_add t1) (tc - t1) (suffixStart tc t1)
  rw [Nat.add_sub_cancel' ht1] at hlevels
  rw [decodeCoeffs, coeffsAfter, hlevels]
  simp only [bind_assoc, ok_bind]
  refine bind_congr_ok fun ⟨signs, p1⟩ hsigns => bind_congr_ok fun ⟨levels, p2⟩ hlevels => ?_
  dsimp only
  rw [readTotalZeros_eq mnc htc]
  refine bind_congr_ok fun ⟨tz, p3⟩ _ => ?_
  dsimp only
  rw [readRuns_eq]
  refine bind_congr_ok fun ⟨runs, p4⟩ _ => ?_
  have hlen : (signs ++ levels).length = tc := by
    have hs := (length_signsFrom hsigns).1
    have hl := (length_levelsFrom (firstSuffixLength_le _ _) hlevels).1
    rw [List.length_append]
    omega
  rw [BlockRead.decoded, hlen]
  rfl

/-- The model's decoder is the reading of the rules (42_cavlc.md R308). -/
theorem decodeBlock_eq (s : State) (nC : Int) (mnc : Mnc) :
    decodeBlock s (here s) nC mnc = s.blockAt nC mnc >>= fun b => .ok b.decoded := by
  rw [decodeBlock, blockAt_eq, vlcRead_eq_codewordAt (isCode_ctTable nC) (isPrinted_ctTable nC), bind_assoc]
  refine bind_congr_ok fun ⟨⟨tc, t1⟩, p⟩ htoken => ?_
  obtain ⟨w, hw, -⟩ := codewordAt_eq_ok (isCode_ctTable nC) (isPrinted_ctTable nC) htoken
  have hle := (tokenWord_bounds hw).2
  dsimp only
  rw [require_decide_bind, ← length_blockOrder]
  by_cases hlarge : (blockOrder mnc).length < tc
  · rw [if_neg (by omega), if_pos hlarge]
    rfl
  rw [if_pos (by omega), if_neg hlarge]
  by_cases hzero : tc = 0
  · rw [if_pos hzero, if_pos hzero]
    rfl
  · rw [if_neg hzero, if_neg hzero, decodeCoeffs_eq (by omega) hle]

end
end Sys2Proof.Machine
end

section
/-! Reading the code of a coefficient list (42_cavlc.md R315, R317): each element's codeword, where the stream holds it, is read
as the element, and the levels and runs put the coefficients back in their places. -/

namespace Sys2Proof.Machine

section
variable {s : State} {pos : Nat}

/-! Levels. -/

theorem signsFrom_of_holds {ls : List Int} (hones : ∀ l ∈ ls, l.natAbs = 1)
    (hold : s.streamHolds pos (ls.map (fun l => decide (l < 0)))) (hlen : pos + ls.length ≤ s.bitlen.toNat) :
    s.signsFrom ls.length pos = .ok (ls, pos + ls.length) := by
  induction ls generalizing pos with
  | nil => rfl
  | cons l ls ih =>
    obtain ⟨hl, hls⟩ := List.forall_mem_cons.mp hones
    rw [List.map_cons, ← List.singleton_append, streamHolds_append, streamHolds_singleton] at hold
    obtain ⟨hbit, hrest⟩ := hold
    rw [List.length_singleton] at hrest
    rw [List.length_cons] at hlen ⊢
    have hsign : (if decide (l < 0) = true then (-1 : Int) else 1) = l := by
      simp only [decide_eq_true_eq]
      split_ifs <;> omega
    rw [State.signsFrom, signAt_from_eq, needBits_eq_ok (u := ()).mpr (by omega), ok_bind, streamBit_eq_ok.mpr hbit, ok_bind,
      ok_bind]
    dsimp only
    rw [ih hls hrest (by omega), ok_bind, hsign, Nat.add_right_comm, Nat.add_assoc]

/-- The level of a number (42_cavlc.md R297, R313). -/
theorem levelValue_of_number {zeros sl x : Nat} {after : Bool} {l : Int} (hl : l ≠ 0)
    (hafter : after = true → l.natAbs ≠ 1) (h : levelNumber after l = zeros <<< sl + x + if zeros = 15 ∧ sl = 0 then 15 else 0) :
    levelValue zeros sl x after = l := by
  rw [levelValue, ← h]
  cases after with
  | false =>
    simp only [levelNumber, Bool.false_eq_true, if_false]
    split_ifs <;> omega
  | true =>
    have habs := hafter rfl
    simp only [levelNumber, if_true]
    split_ifs <;> omega

theorem fieldValue_fieldBits {n x : Nat} (hx : x < 2 ^ n) : fieldValue (fieldBits n x) = x := by
  rw [fieldValue_eq_bitsValue]
  exact (bitsValue_msbBits n x).trans (Nat.mod_eq_of_lt hx)

/-- A level_prefix and its suffix are read as the level that they stand for. -/
theorem levelAt_prefixWord {zeros sl x : Nat} (after : Bool) (hzeros : zeros ≤ 15) (hx : x < 2 ^ suffixBits zeros sl)
    (rest : List (Option Bool)) :
    levelAt sl after ((prefixWord zeros (suffixBits zeros sl) x).map some ++ rest)
      = .value (levelValue zeros sl x after) (zeros + 1 + suffixBits zeros sl) := by
  have hbits : (prefixWord zeros (suffixBits zeros sl) x).map some ++ rest
      = List.replicate zeros (some false) ++ some true :: ((fieldBits (suffixBits zeros sl) x).map some ++ rest) := by
    simp [prefixWord]
  have hlength : (fieldBits (suffixBits zeros sl) x).length = suffixBits zeros sl := length_msbBits _ _
  rw [hbits]
  generalize hfield : fieldBits (suffixBits zeros sl) x = field at hlength ⊢
  have hcount : zerosAt (List.replicate zeros (some false) ++ some true :: (field.map some ++ rest)) = zeros := by
    rw [zerosAt, List.takeWhile_append_of_pos (by simp +contextual), List.takeWhile_cons_of_neg (by simp), List.append_nil,
      List.length_replicate]
  have hdrop : (List.replicate zeros (some false) ++ some true :: (field.map some ++ rest)).drop (zeros + 1)
      = field.map some ++ rest := by
    rw [← List.drop_drop, List.drop_left' (List.length_replicate ..), List.drop_one, List.tail_cons]
  have htake : (field.map some ++ rest).take (suffixBits zeros sl) = field.map some :=
    List.take_left' (by rw [List.length_map, hlength])
  have hvalue : fieldValue ((field.map some).map (·.getD false)) = x := by
    rw [List.map_map, ← hfield]
    exact (congrArg fieldValue (List.map_id _)).trans (fieldValue_fieldBits hx)
  rw [levelAt_eq, hcount, hdrop, htake, hvalue, if_neg (by omega), if_neg (by simp), if_neg (by simp),
    if_neg (by simp [hlength]), if_neg (by simp)]

theorem levelAt_of_holds {sl : Nat} {after : Bool} {l : Int} {w : List Bool} (hl : l ≠ 0)
    (hafter : after = true → l.natAbs ≠ 1) (hw : levelWord sl after l = some w) (hold : s.streamHolds pos w)
    (hlen : pos + w.length ≤ s.bitlen.toNat) :
    (levelAt sl after (s.bitsFrom pos)).from pos = .ok (l, pos + w.length) := by
  obtain ⟨zeros, x, hzeros, hx, rfl, hnumber⟩ := levelWord_eq_some hw
  rw [bitsFrom_of_streamHolds hold hlen, levelAt_prefixWord after hzeros hx, Reading.from_value,
    levelValue_of_number hl hafter hnumber, length_prefixWord]

theorem levelsFrom_of_holds {sl : Nat} {after : Bool} {ls : List Int} {code : List Bool} (hls : ∀ l ∈ ls, l ≠ 0)
    (hafter : after = true → ∀ l ∈ ls.head?, l.natAbs ≠ 1) (hcode : levelWords sl after ls = some code)
    (hold : s.streamHolds pos code) (hlen : pos + code.length ≤ s.bitlen.toNat) :
    s.levelsFrom ls.length sl after pos = .ok (ls, pos + code.length) := by
  induction ls generalizing sl after code pos with
  | nil =>
    obtain rfl := Option.some.inj hcode
    rfl
  | cons l ls ih =>
    obtain ⟨hl, hls⟩ := List.forall_mem_cons.mp hls
    obtain ⟨w, rest, hw, hrest, rfl⟩ := levelWords_cons_eq_some.mp hcode
    obtain ⟨holdw, holdrest⟩ := streamHolds_append.mp hold
    rw [List.length_append, ← Nat.add_assoc] at hlen ⊢
    rw [List.length_cons, State.levelsFrom, levelAt_of_holds hl (fun h => hafter h l rfl) hw holdw (by omega), ok_bind]
    dsimp only
    rw [ih hls (fun h => absurd h Bool.false_ne_true) hrest holdrest hlen, ok_bind]

/-- The trailing ones have magnitude 1, and where there are fewer than three the next level has not (42_cavlc.md R311). -/
theorem trailing_levels (room : Nat) (ls : List Int) :
    (∀ l ∈ ls.take ((ls.take room).takeWhile (fun l => l.natAbs = 1)).length, l.natAbs = 1) ∧
    (((ls.take room).takeWhile (fun l => l.natAbs = 1)).length < room →
      ∀ l ∈ (ls.drop ((ls.take room).takeWhile (fun l => l.natAbs = 1)).length).head?, l.natAbs ≠ 1) := by
  induction room generalizing ls with
  | zero => simp
  | succ room ih =>
    cases ls with
    | nil => simp
    | cons l ls =>
      obtain ⟨htake, hdrop⟩ := ih ls
      rw [List.take_succ_cons]
      by_cases hl : l.natAbs = 1
      · rw [List.takeWhile_cons_of_pos (by simpa using hl), List.length_cons, List.take_succ_cons, List.drop_succ_cons]
        exact ⟨List.forall_mem_cons.mpr ⟨hl, htake⟩, fun h => hdrop (Nat.lt_of_succ_lt_succ h)⟩
      · rw [List.takeWhile_cons_of_neg (by simpa using hl)]
        simpa using hl

/-! Runs. -/

/-- The runs of zeros before falling scan indices, from the highest down; the last takes all that are left. -/
def runsOf : List Nat → List Nat
  | p :: q :: ps => (p - q - 1) :: runsOf (q :: ps)
  | ps => ps

theorem length_runsOf (ps : List Nat) : (runsOf ps).length = ps.length := by
  induction ps with
  | nil => rfl
  | cons p ps ih =>
    cases ps with
    | nil => rfl
    | cons q ps =>
      rw [runsOf, List.length_cons, ih]
      rfl

theorem sum_runsOf {p : Nat} {ps : List Nat} (h : (p :: ps).Pairwise (· > ·)) : (runsOf (p :: ps)).sum + ps.length = p := by
  induction ps generalizing p with
  | nil => simp [runsOf]
  | cons q ps ih =>
    obtain ⟨hfalls, hps⟩ := List.pairwise_cons.mp h
    have hqp := hfalls q List.mem_cons_self
    have hsum := ih hps
    rw [runsOf, List.sum_cons, List.length_cons]
    omega

/-- Without zeros below the highest scan index every run is empty. -/
theorem runsOf_of_noZeros {p : Nat} {ps : List Nat} (h : (p :: ps).Pairwise (· > ·)) (hp : p ≤ ps.length) :
    runsOf (p :: ps) = List.replicate (ps.length + 1) 0 := by
  have hsum := sum_runsOf h
  refine List.eq_replicate_iff.mpr ⟨length_runsOf _, fun r hr => ?_⟩
  have := List.single_le_sum (fun _ _ => Nat.zero_le _) r hr
  omega

theorem runsFrom_of_holds {p : Nat} {ps : List Nat} {code : List Bool} (h : (p :: ps).Pairwise (· > ·))
    (hcode : runWords (p - ps.length) (p :: ps) = some code) (hold : s.streamHolds pos code)
    (hlen : pos + code.length ≤ s.bitlen.toNat) :
    s.runsFrom (ps.length + 1) (p - ps.length) pos = .ok (runsOf (p :: ps), pos + code.length) := by
  induction ps generalizing p code pos with
  | nil =>
    obtain rfl := Option.some.inj hcode
    cases p <;> rfl
  | cons q ps ih =>
    cases hzl : p - (q :: ps).length with
    | zero =>
      rw [hzl, runWords_zero] at hcode
      obtain rfl := Option.some.inj hcode
      rw [runsOf_of_noZeros h (by omega), runsFrom_noZeros]
      rfl
    | succ zl =>
      obtain ⟨hfalls, hps⟩ := List.pairwise_cons.mp h
      have hqp := hfalls q List.mem_cons_self
      have hq := length_le_of_falls hps
      have hzl' := hzl
      rw [List.length_cons] at hzl'
      rw [hzl] at hcode
      obtain ⟨w, rest, hw, hrest, rfl⟩ := (runWords_cons_eq_some (Nat.succ_pos zl)).mp hcode
      rw [show zl + 1 - (p - q - 1) = q - ps.length by omega] at hrest
      obtain ⟨holdw, holdrest⟩ := streamHolds_append.mp hold
      rw [List.length_append, ← Nat.add_assoc] at hlen ⊢
      rw [List.length_cons, State.runsFrom, codewordAt_of_holds (isCode_runBefore (Nat.succ_pos zl))
        (isPrinted_runBefore (Nat.succ_pos zl)) hw holdw (by omega), ok_bind]
      dsimp only
      rw [if_neg (by omega), show zl + 1 - (p - q - 1) = q - ps.length by omega, ih hps hrest holdrest hlen, ok_bind, runsOf]

/-! Zeros. -/

/-- total_zeros and the runs; a block without zeros has no code for them, and none are read. -/
theorem zerosFrom_of_holds {coeff : List Int} {mnc : Mnc} {code : List Bool} (hlen : coeff.length = (blockOrder mnc).length)
    (hpos : totalCoeff coeff ≠ 0) (hcode : zerosCode coeff mnc = some code) (hold : s.streamHolds pos code)
    (hend : pos + code.length ≤ s.bitlen.toNat) :
    (s.zerosFrom mnc (totalCoeff coeff) pos >>= fun tz => s.runsFrom (totalCoeff coeff) tz.1 tz.2)
      = .ok (runsOf (placesOf coeff), pos + code.length) := by
  obtain ⟨p, ps, hps, hp, hcount, hzeros⟩ := placesOf_eq_cons hpos
  have hfalls := placesOf_falls coeff
  rw [hps] at hfalls
  have hle := length_le_of_falls hfalls
  rw [State.zerosFrom]
  by_cases hfull : (blockOrder mnc).length ≤ totalCoeff coeff
  · rw [zerosCode_of_noZeros (.inr hfull)] at hcode
    obtain rfl := Option.some.inj hcode
    rw [if_pos hfull, ok_bind, hps, runsOf_of_noZeros hfalls (by omega), ← hcount, runsFrom_noZeros]
    rfl
  · obtain ⟨w, rest, hw, hrest, rfl⟩ := (zerosCode_eq_some hpos (by omega)).mp hcode
    obtain ⟨holdw, holdrest⟩ := streamHolds_append.mp hold
    rw [List.length_append, ← Nat.add_assoc] at hend ⊢
    rw [hzeros, hps] at hrest
    rw [if_neg hfull, codewordAt_of_holds (isCode_tzTable (by omega) (by omega)) (isPrinted_tzTable (by omega) (by omega)) hw
      holdw (by omega), ok_bind]
    dsimp only
    rw [if_neg (by omega), ok_bind, hzeros, ← hcount, runsFrom_of_holds hfalls hrest holdrest hend, hps]

/-! The block. -/

/-- The block that the code of a coefficient list is read as. -/
def readOf (coeff : List Int) (stop : Nat) : BlockRead :=
  { levels := levelsOf coeff, runs := runsOf (placesOf coeff), ones := onesOf coeff, stop := stop }

/-- The code of a block without coefficients is its coeff_token. -/
theorem readOf_of_empty {coeff : List Int} (h : totalCoeff coeff = 0) (stop : Nat) :
    readOf coeff stop = ⟨[], [], onesOf coeff, stop⟩ := by
  have hplaces : placesOf coeff = [] := List.eq_nil_of_length_eq_zero ((length_placesOf coeff).trans h)
  rw [readOf, levelsOf, hplaces]
  rfl

theorem coeffsAfter_of_holds {coeff : List Int} {mnc : Mnc} {rest zeros : List Bool}
    (hlen : coeff.length = (blockOrder mnc).length) (hpos : totalCoeff coeff ≠ 0)
    (hrest : levelWords (firstSuffixLength (totalCoeff coeff) (onesOf coeff)) (decide (onesOf coeff < 3))
      ((levelsOf coeff).drop (onesOf coeff)) = some rest)
    (hzeros : zerosCode coeff mnc = some zeros)
    (holdsigns : s.streamHolds pos (((levelsOf coeff).take (onesOf coeff)).map (fun l => decide (l < 0))))
    (holdrest : s.streamHolds (pos + onesOf coeff) rest)
    (holdzeros : s.streamHolds (pos + onesOf coeff + rest.length) zeros)
    (hend : pos + onesOf coeff + rest.length + zeros.length ≤ s.bitlen.toNat) :
    coeffsAfter s mnc (totalCoeff coeff) (onesOf coeff) pos
      = .ok (readOf coeff (pos + onesOf coeff + rest.length + zeros.length)) := by
  have hones := (onesOf_le coeff).2
  have htake : ((levelsOf coeff).take (onesOf coeff)).length = onesOf coeff := by
    rw [List.length_take, length_levelsOf, Nat.min_eq_left hones]
  have hdrop : ((levelsOf coeff).drop (onesOf coeff)).length = totalCoeff coeff - onesOf coeff := by
    rw [List.length_drop, length_levelsOf]
  obtain ⟨htrailing, hnext⟩ := trailing_levels 3 (levelsOf coeff)
  rw [← onesOf_eq] at htrailing hnext
  have hsigns := signsFrom_of_holds htrailing holdsigns (by omega)
  have hlevels := levelsFrom_of_holds (fun l hl => ne_zero_of_mem_levelsOf (List.mem_of_mem_drop hl))
    (fun h => hnext (of_decide_eq_true h)) hrest holdrest (by omega)
  obtain ⟨⟨tz, p⟩, htz, hruns⟩ := bind_eq_ok.mp (zerosFrom_of_holds hlen hpos hzeros holdzeros hend)
  rw [htake] at hsigns
  rw [hdrop] at hlevels
  dsimp only at hruns
  rw [coeffsAfter, hsigns, ok_bind, hlevels, ok_bind, htz, ok_bind, hruns, ok_bind, readOf, List.take_append_drop]

/-- The code of a coefficient list is read as that list (42_cavlc.md R315, R317). -/
theorem blockAt_of_holds {coeff : List Int} {nC : Int} {mnc : Mnc} {code : List Bool}
    (hlen : coeff.length = (blockOrder mnc).length) (hcode : blockCode coeff nC mnc = some code)
    (hold : s.streamHolds s.bitpos.toNat code) (hend : s.bitpos.toNat + code.length ≤ s.bitlen.toNat) :
    s.blockAt nC mnc = .ok (readOf coeff (s.bitpos.toNat + code.length)) := by
  obtain ⟨token, rest, zeros, htoken, hrest, hzeros, rfl⟩ := blockCode_eq_some.mp hcode
  have hones := (onesOf_le coeff).2
  have htake : ((levelsOf coeff).take (onesOf coeff)).length = onesOf coeff := by
    rw [List.length_take, length_levelsOf, Nat.min_eq_left hones]
  simp only [List.append_assoc, streamHolds_append, List.length_append, List.length_map, htake, ← Nat.add_assoc]
    at hold hend ⊢
  obtain ⟨holdtoken, holdsigns, holdrest, holdzeros⟩ := hold
  have htc := totalCoeff_le coeff
  rw [blockAt_eq, codewordAt_of_holds (isCode_ctTable nC) (isPrinted_ctTable nC) htoken holdtoken (by omega), ok_bind]
  dsimp only
  rw [if_neg (by omega)]
  by_cases hzero : totalCoeff coeff = 0
  · have hnone : onesOf coeff = 0 := by omega
    have hlevels : (levelsOf coeff).drop (onesOf coeff) = [] :=
      List.drop_eq_nil_of_le ((length_levelsOf coeff).trans_le (by omega))
    rw [hlevels] at hrest
    rw [zerosCode_of_noZeros (.inl hzero)] at hzeros
    obtain rfl := Option.some.inj hrest
    obtain rfl := Option.some.inj hzeros
    rw [if_pos hzero, readOf_of_empty hzero, hnone]
    rfl
  · rw [if_neg hzero, coeffsAfter_of_holds hlen hzero hrest hzeros holdsigns holdrest holdzeros hend]

/-! The coefficients (42_cavlc.md R306). -/

/-- Levels and runs taken from falling scan indices stand at those indices. -/
theorem placed_runsOf (g : Nat → Int) {ps : List Nat} (h : ps.Pairwise (· > ·)) :
    placed (ps.map g) (runsOf ps) = ps.map fun k => (k, g k) := by
  induction ps with
  | nil => rfl
  | cons p ps ih =>
    cases ps with
    | nil => simp [runsOf, placed]
    | cons q ps =>
      obtain ⟨hfalls, hps⟩ := List.pairwise_cons.mp h
      have hqp := hfalls q List.mem_cons_self
      have hsum := sum_runsOf hps
      rw [List.map_cons, runsOf, placed, ih hps, List.map_cons (f := fun k => (k, g k)), List.length_map, List.length_cons]
      congr 2
      omega

theorem coeffAt_readOf (coeff : List Int) (stop k : Nat) : (readOf coeff stop).coeffAt k = coeff.getD k 0 := by
  have hplaced := placed_runsOf (fun k => coeff.getD k 0) (placesOf_falls coeff)
  simp only [BlockRead.coeffAt, readOf, levelsOf, hplaced]
  by_cases hk : k ∈ placesOf coeff
  · rw [List.lookup_graph _ hk, Option.getD_some]
  · have hnone : ((placesOf coeff).map fun k => (k, coeff.getD k 0)).lookup k = none := by
      rw [List.lookup_eq_none_iff]
      simp only [List.forall_mem_map, bne_iff_ne, ne_eq]
      rintro i hi rfl
      exact hk hi
    rw [hnone, Option.getD_none]
    rw [mem_placesOf, not_and_not_right] at hk
    by_cases hlt : k < coeff.length
    · exact (hk hlt).symm
    · rw [List.getD_eq_default _ _ (by omega)]

end

end Sys2Proof.Machine
end

section
/-! `CAVLCDEC` (42_cavlc.md R306 .. R310) and the CAVLC round trip (R317). -/

namespace Sys2Proof.Machine

/-! The coefficients in the slot (42_cavlc.md R306, R307). -/

theorem reassemble_cons (l : Int) (ls : List Int) (r : Nat) (rs : List Nat) :
    reassemble (l :: ls) (r :: rs) = reassemble ls rs ++ (List.replicate r 0 ++ [l]) := by
  simp [reassemble]

theorem length_reassemble {ls : List Int} {rs : List Nat} (h : rs.length = ls.length) :
    (reassemble ls rs).length = rs.sum + ls.length := by
  induction ls generalizing rs with
  | nil =>
    obtain rfl := List.eq_nil_of_length_eq_zero h
    rfl
  | cons l ls ih =>
    cases rs with
    | nil => cases h
    | cons r rs =>
      rw [reassemble_cons, List.length_append, ih (Nat.succ.inj h), List.length_append, List.length_replicate,
        List.length_singleton, List.sum_cons, List.length_cons]
      omega

/-- A run of zeros and its level hold the level after the run, and zeros elsewhere. -/
theorem getD_run (r : Nat) (l : Int) (j : Nat) : (List.replicate r 0 ++ [l]).getD j 0 = if j = r then l else 0 := by
  obtain hj | rfl | hj := Nat.lt_trichotomy j r
  · rw [List.getD_append _ _ _ _ (by rwa [List.length_replicate]), List.getD_replicate _ hj, if_neg (by omega)]
  · rw [List.getD_append_right _ _ _ _ (by rw [List.length_replicate]), List.length_replicate, Nat.sub_self, if_pos rfl]
    rfl
  · rw [List.getD_eq_default _ _ (by rw [List.length_append, List.length_replicate, List.length_singleton]; omega),
      if_neg (by omega)]

/-- The model's coefficient list holds each level at the scan index that its runs give. -/
theorem getD_reassemble {ls : List Int} {rs : List Nat} (h : rs.length = ls.length) (k : Nat) :
    (reassemble ls rs).getD k 0 = ((placed ls rs).lookup k).getD 0 := by
  induction ls generalizing rs with
  | nil =>
    obtain rfl := List.eq_nil_of_length_eq_zero h
    rfl
  | cons l ls ih =>
    cases rs with
    | nil => cases h
    | cons r rs =>
      have hlen := length_reassemble (Nat.succ.inj h)
      have hrest := ih (Nat.succ.inj h)
      rw [reassemble_cons, placed, List.lookup_cons]
      by_cases hk : k = r + rs.sum + ls.length
      · rw [beq_iff_eq.mpr hk, List.getD_append_right _ _ _ _ (by omega), getD_run, if_pos (by omega)]
        rfl
      · rw [beq_false_of_ne hk]
        dsimp only
        rw [← hrest]
        by_cases hlt : k < (reassemble ls rs).length
        · rw [List.getD_append _ _ _ _ hlt]
        · rw [List.getD_append_right _ _ _ _ (by omega), getD_run, if_neg (by omega), List.getD_eq_default _ _ (by omega)]

section
variable {s : State} {slot : Slot} {mnc : Mnc} {plane : Option Plane} {ncsel wb : Bool} {bx byy : Two} {nC : Int}

/-- The command, once its context is found: the block that is read, or the end of the reading. -/
theorem exec_cavlcdec_of_ready (hready : s.contextReady mnc plane ncsel bx byy wb nC) :
    exec (.cavlcdec slot mnc plane ncsel bx byy wb) s = runCommand s (s.blockAt nC mnc >>= fun b =>
      .ok (cavlcResults { writeSlot s slot (unscan (scanPos mnc) (reassemble b.levels b.runs)) with
        bitpos := BitVec.ofNat 32 b.stop } plane wb bx byy (b.stop - here s) b.levels.length b.ones)) := by
  rw [exec, execCavlcdec, cavlcContext_of_ready hready, ok_bind, decodeBlock_eq, bind_assoc]
  rfl

/-- A block that was read ends before `BITLEN`. -/
theorem stop_le_bitlen {b : BlockRead} (h : s.blockAt nC mnc = .ok b) : b.stop ≤ s.bitlen.toNat := by
  have hmeets := meets_decodeBlock s (here s) nC mnc
  rw [decodeBlock_eq, h] at hmeets
  exact hmeets.1

theorem mem_reassemble {ls : List Int} {rs : List Nat} {x : Int} (h : x ∈ reassemble ls rs) : x = 0 ∨ x ∈ ls := by
  obtain ⟨⟨l, r⟩, hlr, hx⟩ := List.mem_flatMap.mp h
  rw [List.mem_append] at hx
  obtain hx | hx := hx
  · exact .inl (List.eq_of_mem_replicate hx)
  · rw [List.mem_singleton.mp hx]
    exact .inr (List.of_mem_zip (List.mem_reverse.mp hlr)).1

theorem fitsElement_reassemble {ls : List Int} {rs : List Nat} (h : ∀ l ∈ ls, l.natAbs ≤ 4096) :
    ∀ x ∈ reassemble ls rs, fitsElement x = true := by
  intro x hx
  rw [fitsElement_iff]
  obtain rfl | hx := mem_reassemble hx
  · decide
  · have := h x hx
    omega

theorem elemIs_unique {s : State} {d : Slot} {r c : Fin 4} {x y : Int} (hx : s.elemIs d r c x) (hy : s.elemIs d r c y) :
    x = y := by
  obtain ⟨v, hv, rfl⟩ := hx
  obtain ⟨w, hw, rfl⟩ := hy
  rw [Option.some.inj (hv.symm.trans hw)]

/-- Only `CB` is written by a write of a slot. -/
theorem writeSlot_eq (s : State) (d : Slot) (block : Block) (pos : Word) :
    { writeSlot s d block with bitpos := pos } = { s with cb := (writeSlot s d block).cb, bitpos := pos } := by
  simp only [writeSlot]

/-- Whether an element is `x` is a matter of `CB`. -/
theorem elemIs_of_cb_eq {t : State} {d : Slot} {r c : Fin 4} {x : Int} (hcb : t.cb = s.cb) (h : s.elemIs d r c x) :
    t.elemIs d r c x := by
  obtain ⟨v, hv, hx⟩ := h
  exact ⟨v, by rw [hcb, hv], hx⟩

theorem contextWritten_of_ncg_eq {t u : State} {tc : Nat} (hncg : u.ncg = t.ncg)
    (h : contextWritten s t plane bx byy wb tc) : contextWritten s u plane bx byy wb tc := by
  obtain ⟨hown, hothers⟩ := h
  exact ⟨fun p hp hwb => by rw [hncg]; exact hown p hp hwb, fun k hk => by rw [hncg]; exact hothers k hk⟩

/-- The elements of a slot that holds a block on its scan positions. -/
theorem elemIs_unscan (s : State) (d : Slot) (mnc : Mnc) {values : List Int} (h : ∀ x ∈ values, fitsElement x = true) :
    (∀ k (hk : k < (blockOrder mnc).length),
      (writeSlot s d (unscan (scanPos mnc) values)).elemIs d (blockOrder mnc)[k].1 (blockOrder mnc)[k].2 (values.getD k 0)) ∧
    ∀ r c, (r, c) ∉ blockOrder mnc → (writeSlot s d (unscan (scanPos mnc) values)).elemIs d r c 0 := by
  have hstored := (slotStored_writeSlot s d (fitsElement_unscan (scan := scanPos mnc) h)).1
  have hvalue : ∀ r c, (writeSlot s d (unscan (scanPos mnc) values)).elemIs d r c
      (if rasterOf (r, c) ∈ scanPos mnc then values.getD ((scanPos mnc).idxOf (rasterOf (r, c))) 0 else 0) := fun r c => by
    have hrc := elemIs_of_cb_eq (complete_cb _).symm (hstored r c)
    rwa [matrixView, Matrix.of_apply, getD_unscan _ _ (by omega)] at hrc
  refine ⟨fun k hk => ?_, fun r c hrc => ?_⟩
  · have hk' : k < (scanPos mnc).length := by rw [scanPos_eq, List.length_map]; exact hk
    have hget : rasterOf (blockOrder mnc)[k] = (scanPos mnc)[k] := by simp only [scanPos_eq, List.getElem_map]
    have hnodup : (scanPos mnc).Nodup := by
      rw [scanPos_eq]
      exact (nodup_blockOrder mnc).map rasterOf_injective
    have hrc := hvalue (blockOrder mnc)[k].1 (blockOrder mnc)[k].2
    rwa [Prod.mk.eta, hget, if_pos (List.getElem_mem hk'), hnodup.idxOf_getElem] at hrc
  · have hmem : rasterOf (r, c) ∉ scanPos mnc := by
      rw [scanPos_eq, List.mem_map_of_injective rasterOf_injective]
      exact hrc
    have hvalue := hvalue r c
    rwa [if_neg hmem] at hvalue

/-- `t` is `s` after `CAVLCDEC` stored the block `b` in `CB[slot]`, reported it, and completed (42_cavlc.md R309, R310). -/
def blockStored (s t : State) (slot : Slot) (mnc : Mnc) (plane : Option Plane) (bx byy : Two) (wb : Bool)
    (b : BlockRead) : Prop :=
  (∀ k (h : k < (blockOrder mnc).length), t.elemIs slot (blockOrder mnc)[k].1 (blockOrder mnc)[k].2 (b.coeffAt k)) ∧
  (∀ r c, (r, c) ∉ blockOrder mnc → t.elemIs slot r c 0) ∧
  (∀ k, k / 16 ≠ slot.toNat → cellRead t.cb k = cellRead s.cb k) ∧
  t.bitpos.toNat = b.stop ∧ t.res.toNat = b.levels.length ∧
  t.cvstat.toNat = (b.stop - s.bitpos.toNat) * 2 ^ 16 + b.ones * 2 ^ 8 + b.levels.length ∧
  contextWritten s t plane bx byy wb b.levels.length ∧ t.busy = false ∧ t.done = true ∧
  { t with cb := s.cb, bitpos := s.bitpos, res := s.res, cvstat := s.cvstat, ncg := s.ncg,
           busy := s.busy, done := s.done } = s

/-- The state after `CB` is written, the cursor moved and the results written. -/
theorem complete_cavlcResults_decoded (s : State) (cells : Cells Word) (plane : Option Plane) (wb : Bool) (bx byy : Two)
    (pos : Word) (n tc t1 : Nat) :
    ∃ u, complete (cavlcResults { s with cb := cells, bitpos := pos } plane wb bx byy n tc t1) = u ∧
      u.cb = cells ∧ u.bitpos = pos ∧ u.res = BitVec.ofNat 32 tc ∧ u.cvstat = cvstatOf n t1 tc ∧
      contextWritten s u plane bx byy wb tc ∧ u.busy = false ∧ u.done = true ∧
      { u with cb := s.cb, bitpos := s.bitpos, res := s.res, cvstat := s.cvstat, ncg := s.ncg,
               busy := s.busy, done := s.done } = s := by
  obtain ⟨m, hresults, hcontext⟩ := cavlcResults_eq_contextWritten (s := s) (t := { s with cb := cells, bitpos := pos })
    rfl rfl plane wb bx byy n tc t1
  rw [hresults]
  exact ⟨_, rfl, rfl, rfl, rfl, rfl, contextWritten_of_ncg_eq rfl hcontext, rfl, rfl, rfl⟩

/-- The command that completes: the block on the scan positions of the slot, and the results. -/
theorem exec_cavlcdec_of_read (hready : s.contextReady mnc plane ncsel bx byy wb nC) {b : BlockRead}
    (hb : s.blockAt nC mnc = .ok b) :
    ∃ t, exec (.cavlcdec slot mnc plane ncsel bx byy wb) s = .next t ∧ blockStored s t slot mnc plane bx byy wb b := by
  obtain ⟨hruns, hsum, hones, hstop, hlevels⟩ := blockAt_eq_ok hb
  have hbitlen := stop_le_bitlen hb
  have hlt := s.bitlen.isLt
  have hmnc := length_blockOrder_le mnc
  obtain ⟨helems, hzeros⟩ := elemIs_unscan s slot mnc (fitsElement_reassemble hlevels)
  have hkeep := fun k => cellRead_writeSlot s slot (unscan (scanPos mnc) (reassemble b.levels b.runs)) k
  have hexec := exec_cavlcdec_of_ready (slot := slot) hready
  rw [hb, ok_bind, runCommand_ok, writeSlot_eq] at hexec
  generalize (writeSlot s slot (unscan (scanPos mnc) (reassemble b.levels b.runs))) = stored at *
  obtain ⟨u, hu, hcb, hbitpos, hres, hcvstat, hcontext, hbusy, hdone, hframe⟩ := complete_cavlcResults_decoded s stored.cb
    plane wb bx byy (BitVec.ofNat 32 b.stop) (b.stop - here s) b.levels.length b.ones
  refine ⟨u, hexec.trans (congrArg _ hu), fun k hk => ?_, fun r c hrc => elemIs_of_cb_eq hcb (hzeros r c hrc), fun k hk => ?_,
    ?_, ?_, ?_, hcontext, hbusy, hdone, hframe⟩
  · have helem := helems k hk
    rw [getD_reassemble hruns] at helem
    exact elemIs_of_cb_eq hcb helem
  · rw [hcb, hkeep, if_neg (by omega)]
  · rw [hbitpos, toNat_ofNat_of_lt (by omega)]
  · rw [hres, toNat_ofNat_of_lt (by omega)]
  · rw [hcvstat, here, toNat_cvstatOf (by omega) hones (by omega)]

/-- A reading that stops ends the command. -/
theorem exec_cavlcdec_of_stop (hready : s.contextReady mnc plane ncsel bx byy wb nC) {x : Stop}
    (hx : s.blockAt nC mnc = .error x) : exec (.cavlcdec slot mnc plane ncsel bx byy wb) s = runCommand s (.error x) := by
  rw [exec_cavlcdec_of_ready hready, hx, error_bind]

end

/-- Settles O40: the model's decoder is the reading of the rules, and the code of a list is read as the list. -/
theorem cavlcdecReadsTheBlock : Obligations.CavlcdecReadsTheBlock := by
  intro s slot mnc plane ncsel bx byy wb nC hready
  refine ⟨fun b hb => exec_cavlcdec_of_read hready hb, fun e pos hx => exec_cavlcdec_of_stop hready hx,
    fun f hx => exec_cavlcdec_of_stop hready hx, fun coeff code hlen hcode hold hend => ?_⟩
  exact ⟨_, blockAt_of_holds hlen hcode hold hend, coeffAt_readOf coeff _, rfl, length_levelsOf coeff, rfl⟩

/-- With the cursor back at the start of the code that `CAVLCENC` wrote, `CAVLCDEC` reads the block that was encoded. -/
theorem roundTrip_of_blockWritten {s t : State} {slot d : Slot} {mnc : Mnc} {nC : Int} {plane plane' : Option Plane}
    {ncsel' wb wb' : Bool} {bx byy bx' byy' : Two} {coeff : List Int} {code : List Bool}
    (hready : State.contextReady { t with bitpos := s.bitpos } mnc plane' ncsel' bx' byy' wb' nC)
    (hlen : coeff.length = (blockOrder mnc).length)
    (helem : ∀ k (h : k < (blockOrder mnc).length),
      s.elemIs slot (blockOrder mnc)[k].1 (blockOrder mnc)[k].2 (coeff.getD k 0))
    (hcode : blockCode coeff nC mnc = some code) (hwritten : blockWritten s t plane bx byy wb coeff code) :
    ∃ u, exec (.cavlcdec d mnc plane' ncsel' bx' byy' wb') { t with bitpos := s.bitpos } = .next u ∧ u.done = true ∧
      u.bitpos = t.bitpos ∧ u.res = t.res ∧ u.cvstat = t.cvstat ∧
      (∀ r c x, (r, c) ∈ blockOrder mnc → s.elemIs slot r c x → u.elemIs d r c x) ∧
      (∀ r c, (r, c) ∉ blockOrder mnc → u.elemIs d r c 0) := by
  obtain ⟨hold, -, hpos, hbitlen, hres, hcvstat, -⟩ := hwritten
  have hblock := blockAt_of_holds (s := { t with bitpos := s.bitpos }) hlen hcode hold (by dsimp only; omega)
  obtain ⟨u, hexec, helems, hzeros, -, hupos, hures, hucvstat, -, -, hudone, -⟩ :=
    exec_cavlcdec_of_read (slot := d) hready hblock
  have hlevels : (readOf coeff (s.bitpos.toNat + code.length)).levels.length = totalCoeff coeff := length_levelsOf coeff
  refine ⟨u, hexec, hudone, BitVec.eq_of_toNat_eq (hupos.trans hpos.symm),
    BitVec.eq_of_toNat_eq ((hures.trans hlevels).trans hres.symm), BitVec.eq_of_toNat_eq ?_, fun r c x hrc hx => ?_, hzeros⟩
  · rw [hucvstat, hcvstat, hlevels]
    simp only [readOf, Nat.add_sub_cancel_left]
  · obtain ⟨k, hk, hget⟩ := List.getElem_of_mem hrc
    have hu := helems k hk
    have hs := helem k hk
    rw [coeffAt_readOf, hget] at hu
    rw [hget] at hs
    rwa [elemIs_unique hx hs]

/-- Settles O41: `CAVLCENC` left the code of the block at the start, and `CAVLCDEC` reads it as the block. -/
theorem cavlcRoundTrip : Obligations.CavlcRoundTrip := by
  intro s t slot d mnc nC plane plane' ncsel ncsel' bx byy bx' byy' wb wb' hwf hready hexec hdone hready'
  obtain ⟨coeff, hlen, helem⟩ | hunwritten := exists_coeff_or_unwritten s slot mnc
  case inr =>
    rw [(cavlcencWritesTheBlock s slot mnc plane ncsel bx byy wb nC hwf hready).2 hunwritten] at hexec
    cases hexec
  obtain ⟨hwrites, hnone, -⟩ := (cavlcencWritesTheBlock s slot mnc plane ncsel bx byy wb nC hwf hready).1 coeff hlen helem
  cases hcode : blockCode coeff nC mnc with
  | none =>
    rw [hnone hcode] at hexec
    cases hexec
    cases hdone
  | some code =>
    obtain ⟨hfits, hfull⟩ := hwrites code hcode
    by_cases hfit : s.bitpos.toNat + code.length ≤ 8 * s.params.bsbBytes
    · obtain ⟨t', ht', hwritten⟩ := hfits hfit
      obtain rfl : t' = t := Host.Outcome.next.inj (ht'.symm.trans hexec)
      exact roundTrip_of_blockWritten hready' hlen helem hcode hwritten
    · rw [hfull (by omega)] at hexec
      cases hexec
      cases hdone

end Sys2Proof.Machine
end

section
/-! The transform commands (43_transform.md R380 .. R393): a matrix as the block of its elements, how a command that stores
one ends, the model's matrices, tables and roundings as the rules give them, and what each command stores. -/

namespace Sys2Proof.Machine

/-! Matrices as blocks (10_state.md R72). -/

/-- The block whose elements are those of the matrix. -/
def blockOf (X : Matrix4) : Block := mkBlock fun r c => X (Fin.ofNat 4 r) (Fin.ofNat 4 c)

theorem blockOf_eq_map (X : Matrix4) : blockOf X = (List.range 16).map (vectorView X) := rfl

@[simp] theorem at_blockOf (X : Matrix4) (r c : Fin 4) : (blockOf X).at r.val c.val = X r c := by
  rw [blockOf, at_mkBlock _ r.isLt c.isLt, Fin.ofNat_val_eq_self, Fin.ofNat_val_eq_self]

/-- A block is that of the matrix which agrees with it on the rows and columns of a slot. -/
theorem mkBlock_eq_blockOf {f : Nat → Nat → Int} {Z : Matrix4} (h : ∀ r c : Fin 4, f r.val c.val = Z r c) :
    mkBlock f = blockOf Z :=
  List.map_congr_left (g := vectorView Z) fun k hk => by
    have hr : k / 4 < 4 := Nat.div_lt_of_lt_mul (List.mem_range.mp hk)
    have hc : k % 4 < 4 := Nat.mod_lt k (by decide)
    simpa [vectorView, Fin.ofNat, Nat.mod_eq_of_lt hr] using h ⟨k / 4, hr⟩ ⟨k % 4, hc⟩

theorem matrixView_blockOf (Z : Matrix4) : (matrixView fun k => (blockOf Z).getD k 0) = Z := by
  ext r c
  exact at_blockOf Z r c

theorem fitsElement_eq_true_iff_fitsSlot {x : Int} : fitsElement x = true ↔ fitsSlot x := by
  rw [fitsElement_iff, fitsSlot]
  norm_num

theorem forall_mem_blockOf {Z : Matrix4} : (∀ x ∈ blockOf Z, fitsElement x = true) ↔ ∀ r c, fitsSlot (Z r c) := by
  simp only [fitsElement_eq_true_iff_fitsSlot]
  constructor
  · intro h r c
    refine h _ (List.mem_map.mpr ⟨4 * r.val + c.val, List.mem_range.mpr (by omega), ?_⟩)
    exact vectorView_raster Z r c
  · intro h x hx
    obtain ⟨k, -, rfl⟩ := List.mem_map.mp hx
    exact h _ _

/-! The ends of a command that stores a block (43_transform.md R380). -/

section
variable {s : State} {d src u : Slot} {X Z : Matrix4}

theorem checkQp_of_le (h : s.qp.toNat ≤ 51) : checkQp s = .ok () := checkQp_eq_ok.mpr h

theorem fitsSlot_of_slotIs (h : s.slotIs src X) (r c : Fin 4) : fitsSlot (X r c) :=
  fitsElement_eq_true_iff_fitsSlot.mp (fitsElement_of_readElem (readElem_raster_eq_ok.mpr (h r c)))

theorem readSlot_of_slotIs (h : s.slotIs src X) : readSlot s src = .ok (blockOf X) :=
  (readEach_readElem fun _ hk => readElem_of_slotIs h (List.mem_range.mp hk)).1

theorem storeBlock_blockOf_of_fits (hfits : ∀ r c, fitsSlot (Z r c)) :
    ∃ t, runCommand s (storeBlock s d (blockOf Z)) = .next t ∧ slotStored s t d Z := by
  have hb := forall_mem_blockOf.mpr hfits
  refine ⟨_, ?_, matrixView_blockOf Z ▸ slotStored_writeSlot s d hb⟩
  rw [storeBlock_eq_ok.mpr ⟨hb, rfl⟩, runCommand_ok]

theorem storeBlock_blockOf_of_not_fits (h : ∃ r c, ¬fitsSlot (Z r c)) :
    runCommand s (storeBlock s d (blockOf Z)) = .next (errorEnd s .arithOverflow s.bitpos.toNat) := by
  obtain ⟨r, c, hrc⟩ := h
  rw [storeBlock_of_not fun hb => hrc (forall_mem_blockOf.mp hb r c), runCommand_raise, here]

/-- A command that comes down to storing `Z` completes when every element fits, and overflows otherwise. -/
theorem ends_of_storeBlock {i : Instr} (h : exec i s = runCommand s (storeBlock s d (blockOf Z))) :
    ((∀ r c, fitsSlot (Z r c)) → ∃ t, exec i s = .next t ∧ slotStored s t d Z) ∧
    ((∃ r c, ¬fitsSlot (Z r c)) → exec i s = .next (errorEnd s .arithOverflow s.bitpos.toNat)) := by
  rw [h]
  exact ⟨storeBlock_blockOf_of_fits, storeBlock_blockOf_of_not_fits⟩

end

/-! Products (43_transform.md R382, R386). -/

theorem matMul_blockOf (A B : Matrix4) : matMul (blockOf A) (blockOf B) = blockOf (A * B) :=
  mkBlock_eq_blockOf fun r c => by
    have hA := at_blockOf A r
    have hB := fun k => at_blockOf B k c
    rw [Matrix.mul_apply, Fin.sum_univ_four, ← hA, ← hA, ← hA, ← hA, ← hB, ← hB, ← hB, ← hB]
    rfl

theorem matTranspose_blockOf (A : Matrix4) : matTranspose (blockOf A) = blockOf A.transpose :=
  mkBlock_eq_blockOf fun r c => at_blockOf A c r

theorem coreMatrix_eq_blockOf : coreMatrix = blockOf coreOf := by decide

theorem hadamardMatrix_eq_blockOf : hadamardMatrix = blockOf hadamardOf := by decide

theorem forwardCore_blockOf (X : Matrix4) : forwardCore (blockOf X) = blockOf (coreOf * X * coreOf.transpose) := by
  rw [forwardCore, coreMatrix_eq_blockOf, matTranspose_blockOf, matMul_blockOf, matMul_blockOf]

theorem hadamard_blockOf (X : Matrix4) : hadamard (blockOf X) = blockOf (hadamardOf * X * hadamardOf) := by
  rw [hadamard, hadamardMatrix_eq_blockOf, matMul_blockOf, matMul_blockOf]

/-! The scaling tables (43_transform.md R381, R383, R388). -/

theorem posClass_eq_classOf (r c : Fin 4) : posClass r.val c.val = (classOf r c).val := by
  revert r c
  decide

theorem forwardFactor_mod (qp : Nat) (cls : Fin 3) : forwardFactor (qp % 6) cls = forwardFactor qp cls := by
  rw [forwardFactor, Nat.mod_mod, ← forwardFactor]

theorem inverseFactor_mod (qp : Nat) (cls : Fin 3) : inverseFactor (qp % 6) cls = inverseFactor qp cls := by
  rw [inverseFactor, Nat.mod_mod, ← inverseFactor]

theorem forwardScale_eq_forwardFactor (qp : Nat) (cls : Fin 3) :
    forwardScale (qp % 6) cls.val = forwardFactor qp cls := by
  have table : ∀ m < 6, ∀ cls : Fin 3, forwardScale m cls.val = forwardFactor m cls := by decide
  rw [table _ (Nat.mod_lt qp (by decide)), forwardFactor_mod]

theorem inverseScale_eq_inverseFactor (qp : Nat) (cls : Fin 3) :
    inverseScale (qp % 6) cls.val = inverseFactor qp cls := by
  have table : ∀ m < 6, ∀ cls : Fin 3, inverseScale m cls.val = inverseFactor m cls := by decide
  rw [table _ (Nat.mod_lt qp (by decide)), inverseFactor_mod]

theorem forwardFactor_range (qp : Nat) (cls : Fin 3) : 0 ≤ forwardFactor qp cls ∧ forwardFactor qp cls ≤ 13107 := by
  have table : ∀ m < 6, ∀ cls : Fin 3, 0 ≤ forwardFactor m cls ∧ forwardFactor m cls ≤ 13107 := by decide
  exact forwardFactor_mod qp cls ▸ table _ (Nat.mod_lt qp (by decide)) cls

/-! Rounding (43_transform.md R384). -/

section
variable {x m z : Int}

theorem abs_sub_floor_mul (hm : 0 < m) : |x - x / m * m| = x % m := by
  rw [mul_comm, ← Int.emod_def, abs_of_nonneg (Int.emod_nonneg x hm.ne')]

theorem abs_sub_floor_succ_mul (hm : 0 < m) : |x - (x / m + 1) * m| = m - x % m := by
  have hsub : x - (x / m + 1) * m = x % m - m := by linarith [Int.mul_ediv_add_emod x m]
  rw [hsub, abs_sub_comm, abs_of_pos (sub_pos.mpr (Int.emod_lt_of_pos x hm))]

/-- An integer nearest to `x / m` is the floor or the one above it. -/
theorem eq_floor_or_succ_of_nearest (hm : 0 < m) (h : 2 * |x - z * m| ≤ m) : z = x / m ∨ z = x / m + 1 := by
  have hlo := Int.emod_nonneg x hm.ne'
  have hhi := Int.emod_lt_of_pos x hm
  have hsub : x - z * m = x % m - (z - x / m) * m := by linarith [Int.mul_ediv_add_emod x m]
  rw [hsub] at h
  have habove := le_abs_self (x % m - (z - x / m) * m)
  have hbelow := neg_abs_le (x % m - (z - x / m) * m)
  have hpos : -1 < z - x / m := by nlinarith
  have hlt : z - x / m < 2 := by nlinarith
  omega

end

theorem roundsTo_halfEven_iff (x : Int) (k : Nat) (z : Int) :
    roundsTo .halfEven x k z ↔ z = roundShift .halfEven x k := by
  have hm : (0 : Int) < 2 ^ k := by positivity
  rw [roundsTo, roundShift]
  by_cases hfloor : z = x / 2 ^ k
  · rw [hfloor, abs_sub_floor_mul hm]
    split_ifs <;> omega
  by_cases hsucc : z = x / 2 ^ k + 1
  · rw [hsucc, abs_sub_floor_succ_mul hm]
    split_ifs <;> omega
  · refine iff_of_false (fun h => (eq_floor_or_succ_of_nearest hm h.1).elim hfloor hsucc) ?_
    split_ifs <;> assumption

theorem roundsTo_halfAway_iff (x : Int) (k : Nat) (z : Int) :
    roundsTo .halfAway x k z ↔ z = roundShift .halfAway x k := by
  rw [roundsTo, roundShift]
  by_cases hx : 0 ≤ x
  · rw [if_pos hx, if_pos hx, abs_of_nonneg hx, one_mul]
  · rw [if_neg hx, if_neg hx, abs_of_neg (not_le.mp hx), neg_one_mul]

theorem roundsTo_iff_eq_roundShift (rule : FwdRound) (x : Int) (k : Nat) (z : Int) :
    roundsTo rule x k z ↔ z = roundShift rule x k := by
  cases rule
  case halfAway => exact roundsTo_halfAway_iff x k z
  case halfEven => exact roundsTo_halfEven_iff x k z

/-! The butterfly (43_transform.md R390, R391). -/

theorem shiftRight_one_eq_div (x : Int) : x >>> (1 : Int) = x / 2 :=
  (Int.shiftRight_natCast_right x 1).trans (Int.shiftRight_eq_div_pow x 1)

theorem shiftRight_six_eq_div (x : Int) : x >>> (6 : Int) = x / 64 :=
  (Int.shiftRight_natCast_right x 6).trans (Int.shiftRight_eq_div_pow x 6)

theorem butterfly4_eq_stageOf (a b c d : Int) (k : Fin 4) : butterfly4 a b c d k.val = stageOf a b c d k := by
  rw [stageOf, shiftRight_one_eq_div, shiftRight_one_eq_div]
  fin_cases k <;> rfl

/-- The rows of the butterfly. -/
def rowStage (D : Matrix4) : Matrix4 := Matrix.of fun i => stageOf (D i 0) (D i 1) (D i 2) (D i 3)

/-- The columns of the butterfly. -/
def columnStage (F : Matrix4) : Matrix4 := Matrix.of fun r c => stageOf (F 0 c) (F 1 c) (F 2 c) (F 3 c) r

theorem inverseOf_apply (D : Matrix4) (r c : Fin 4) : inverseOf D r c = (columnStage (rowStage D) r c + 32) / 64 :=
  shiftRight_six_eq_div _

theorem butterfly_blockOf (D : Matrix4) : butterfly (blockOf D) = blockOf (columnStage (rowStage D)) := by
  have hrows : (mkBlock fun i k => butterfly4 ((blockOf D).at i 0) ((blockOf D).at i 1) ((blockOf D).at i 2)
      ((blockOf D).at i 3) k) = blockOf (rowStage D) :=
    mkBlock_eq_blockOf fun i k => by
      rw [butterfly4_eq_stageOf, rowStage, Matrix.of_apply, ← at_blockOf D i 0, ← at_blockOf D i 1, ← at_blockOf D i 2,
        ← at_blockOf D i 3]
      rfl
  rw [butterfly, hrows]
  generalize rowStage D = F
  refine mkBlock_eq_blockOf fun k j => ?_
  rw [butterfly4_eq_stageOf, columnStage, Matrix.of_apply, ← at_blockOf F 0 j, ← at_blockOf F 1 j, ← at_blockOf F 2 j,
    ← at_blockOf F 3 j]
  rfl

theorem inverseCore_blockOf (D : Matrix4) : inverseCore (blockOf D) = blockOf (inverseOf D) :=
  mkBlock_eq_blockOf fun r c => by rw [butterfly_blockOf, at_blockOf, inverseOf_apply]

theorem abs_stageOf_le {a b c d n : Int} (ha : |a| ≤ n) (hb : |b| ≤ n) (hc : |c| ≤ n) (hd : |d| ≤ n) (k : Fin 4) :
    |stageOf a b c d k| ≤ 4 * n := by
  rw [← butterfly4_eq_stageOf]
  rw [abs_le] at *
  fin_cases k <;> simp only [butterfly4] <;> omega

/-- Two stages grow 32-bit elements at most 16-fold, and the last shift divides by 64. -/
theorem fitsSlot_inverseOf {D : Matrix4} (h : ∀ r c, fitsSlot (D r c)) (r c : Fin 4) : fitsSlot (inverseOf D r c) := by
  have hD (i j : Fin 4) : |D i j| ≤ 2147483648 := by
    obtain ⟨hlo, hhi⟩ := h i j
    exact abs_le.mpr (by omega)
  have hrow (i j : Fin 4) : |rowStage D i j| ≤ 4 * 2147483648 := abs_stageOf_le (hD i 0) (hD i 1) (hD i 2) (hD i 3) j
  have hcolumn : |columnStage (rowStage D) r c| ≤ 4 * (4 * 2147483648) :=
    abs_stageOf_le (hrow 0 c) (hrow 1 c) (hrow 2 c) (hrow 3 c) r
  rw [abs_le] at hcolumn
  rw [inverseOf_apply, fitsSlot]
  omega

/-! The values that the other commands store. -/

/-- The quotients that `FQUANT` stores (43_transform.md R385). -/
def quantOf (rule : FwdRound) (qp : Nat) (ac : Bool) (W : Matrix4) : Matrix4 :=
  Matrix.of fun r c =>
    if ac = true ∧ r = 0 ∧ c = 0 then 0
    else roundShift rule (W r c * forwardFactor qp (classOf r c)) (15 + qp / 6)

theorem quantBlock_blockOf (rule : FwdRound) (qp : Nat) (ac : Bool) (W : Matrix4) :
    quantBlock rule qp ac (blockOf W) = blockOf (quantOf rule qp ac W) :=
  mkBlock_eq_blockOf fun r c => by
    simp only [quantOf, Matrix.of_apply, at_blockOf, posClass_eq_classOf, forwardScale_eq_forwardFactor,
      Fin.val_eq_zero_iff]

theorem quantDc_blockOf {rule : FwdRound} {qp : Nat} {WD Z : Matrix4}
    (hZ : ∀ r c, roundsTo rule ((hadamardOf * WD * hadamardOf) r c * forwardFactor qp 0) (15 + qp / 6 + 2) (Z r c)) :
    quantDc rule qp (blockOf WD) = blockOf Z :=
  mkBlock_eq_blockOf fun r c => by
    rw [hadamard_blockOf, at_blockOf, (roundsTo_iff_eq_roundShift ..).mp (hZ r c), ← forwardScale_eq_forwardFactor]
    rfl

theorem dequantBlock_blockOf {qp : Nat} {dc : Bool} {Z D : Matrix4}
    (hD : ∀ r c, D r c = if dc = true ∧ r = 0 ∧ c = 0 then Z 0 0
      else Z r c * inverseFactor qp (classOf r c) * 2 ^ (qp / 6)) :
    dequantBlock qp dc (blockOf Z) = blockOf D :=
  mkBlock_eq_blockOf fun r c => by
    have h00 : (blockOf Z).at 0 0 = Z 0 0 := at_blockOf Z 0 0
    simp only [hD, at_blockOf, h00, posClass_eq_classOf, inverseScale_eq_inverseFactor, Fin.val_eq_zero_iff]

theorem dequantDc_blockOf {qp : Nat} {C D : Matrix4}
    (hD : ∀ r c, D r c = dcScaled qp ((hadamardOf * C * hadamardOf) r c)) :
    dequantDc qp (blockOf C) = blockOf D :=
  mkBlock_eq_blockOf fun r c => by
    have hfactor : inverseScale (qp % 6) 0 = inverseFactor qp 0 := inverseScale_eq_inverseFactor qp 0
    rw [hD, dcScaled, hadamard_blockOf, at_blockOf, hfactor, Int.shiftRight_eq_div_pow, Nat.cast_pow, Nat.cast_ofNat]

theorem presTerm_blockOf (a : List Int) (qp : Nat) (X F : Matrix4) :
    presTerm a qp (blockOf X) (blockOf F) = blockOf (presSum a qp X F) :=
  mkBlock_eq_blockOf fun r c => by
    rw [presSum, Matrix.of_apply, shiftRight_six_eq_div, at_blockOf, at_blockOf, posClass_eq_classOf,
      inverseScale_eq_inverseFactor, Block.at]

theorem presSum_zero (a : List Int) (qp : Nat) (F : Matrix4) : presSum a qp 0 F = F := by
  ext r c
  rw [presSum, Matrix.of_apply, shiftRight_six_eq_div, Matrix.zero_apply, zero_mul, zero_mul, zero_mul, Int.zero_ediv,
    add_zero]

/-! Forward quantization never overflows (43_transform.md R385). -/

/-- With `m = 2 * h`, adding `h` before the division by `m` rounds to a nearest integer. -/
theorem abs_sub_add_half_div_le {y m h : Int} (hm : m = 2 * h) (hh : 0 < h) : 2 * |y - (y + h) / m * m| ≤ m := by
  have hlo := Int.emod_nonneg (y + h) (show m ≠ 0 by omega)
  have hhi := Int.emod_lt_of_pos (y + h) (show 0 < m by omega)
  have hsub : y - (y + h) / m * m = (y + h) % m - h := by linarith [Int.mul_ediv_add_emod (y + h) m]
  have habs : |(y + h) % m - h| ≤ h := abs_le.mpr (by omega)
  rw [hsub]
  omega

/-- Either rule rounds to a nearest integer. -/
theorem roundShift_nearest (rule : FwdRound) (x : Int) {k : Nat} (hk : 0 < k) :
    2 * |x - roundShift rule x k * 2 ^ k| ≤ 2 ^ k := by
  cases rule
  case halfEven => exact ((roundsTo_halfEven_iff x k _).mpr rfl).1
  case halfAway =>
    have hpow : (2 : Int) ^ k = 2 * 2 ^ (k - 1) := by rw [← pow_succ', Nat.sub_add_cancel hk]
    have hnear (y : Int) := abs_sub_add_half_div_le (y := y) hpow (by positivity)
    rw [roundShift]
    split_ifs
    · exact hnear x
    · rw [neg_mul, sub_neg_eq_add, ← abs_neg, neg_add']
      exact hnear (-x)

/-- Scaling by a factor of `MF` and dividing by at least `2^15` leaves a 32-bit element in 32 bits. -/
theorem fitsSlot_roundShift (rule : FwdRound) {w f : Int} {k : Nat} (hw : fitsSlot w) (hf : 0 ≤ f ∧ f ≤ 13107)
    (hk : 15 ≤ k) : fitsSlot (roundShift rule (w * f) k) := by
  obtain ⟨hwlo, hwhi⟩ := hw
  obtain ⟨hflo, hfhi⟩ := hf
  have hm : (2 : Int) ^ 15 ≤ 2 ^ k := pow_le_pow_right₀ (by norm_num) hk
  have hnear := roundShift_nearest rule (w * f) (show 0 < k by omega)
  generalize roundShift rule (w * f) k = z at *
  generalize (2 : Int) ^ k = m at *
  have hlo := neg_abs_le (w * f - z * m)
  have hhi := le_abs_self (w * f - z * m)
  have hxlo : -(2147483648 * 13107) ≤ w * f := by nlinarith
  have hxhi : w * f ≤ 2147483648 * 13107 := by nlinarith
  constructor
  · by_contra hz
    nlinarith
  · by_contra hz
    nlinarith

theorem fitsSlot_quantOf {W : Matrix4} (h : ∀ r c, fitsSlot (W r c)) (rule : FwdRound) (qp : Nat) (ac : Bool)
    (r c : Fin 4) : fitsSlot (quantOf rule qp ac W r c) := by
  rw [quantOf, Matrix.of_apply]
  split
  · norm_num [fitsSlot]
  · exact fitsSlot_roundShift rule (h r c) (forwardFactor_range ..) (Nat.le_add_right ..)

/-! The commands. -/

section
variable {s : State} {src : Slot} {X : Matrix4}

theorem exec_idct (d : Slot) (h : s.slotIs src X) :
    exec (.idct d src) s = runCommand s (storeBlock s d (blockOf (inverseOf X))) := by
  rw [exec, execIdct, readSlot_of_slotIs h, ok_bind, inverseCore_blockOf]

theorem exec_pres (d : Slot) {u : Slot} {F : Matrix4} (hqp : s.qp.toNat ≤ 51) (hX : s.slotIs src X) (hF : s.slotIs u F) :
    exec (.pres d src u) s
      = runCommand s (storeBlock s d (blockOf (inverseOf (presSum s.params.presA s.qp.toNat X F)))) := by
  rw [exec, execPres, checkQp_of_le hqp, ok_bind, readSlot_of_slotIs hX, ok_bind, readSlot_of_slotIs hF, ok_bind,
    presTerm_blockOf, inverseCore_blockOf]

end

/-- Settles O46: the model's products are those of the matrices. -/
theorem fcoreIsTheCoreTransform : Obligations.FcoreIsTheCoreTransform := by
  intro s d src X hX
  refine ends_of_storeBlock ?_
  rw [exec, execFcore, readSlot_of_slotIs hX, ok_bind, forwardCore_blockOf]

/-- Settles O47: the model's quotients are rounded as the rule says, and fit because `MF` is below the divisor. -/
theorem fquantRoundsTheScaledBlock : Obligations.FquantRoundsTheScaledBlock := by
  intro s d src ac W hqp hW
  have hexec : exec (.fquant d src ac) s
      = runCommand s (storeBlock s d (blockOf (quantOf s.params.fwdRound s.qp.toNat ac W))) := by
    rw [exec, execFquant, checkQp_of_le hqp, ok_bind, readSlot_of_slotIs hW, ok_bind, quantBlock_blockOf]
  obtain ⟨t, ht, hstored⟩ := (ends_of_storeBlock hexec).1 (fitsSlot_quantOf (fitsSlot_of_slotIs hW) _ _ _)
  refine ⟨t, _, ht, hstored, fun hac => if_pos ⟨hac, rfl, rfl⟩, fun r c hrc => ?_⟩
  exact (roundsTo_iff_eq_roundShift ..).mpr (if_neg hrc)

/-- Settles O48: a rounded quotient is the model's. -/
theorem fhadqQuantizesTheHadamardTransform : Obligations.FhadqQuantizesTheHadamardTransform := by
  intro s d src WD Z hqp hWD hZ
  refine ends_of_storeBlock ?_
  rw [exec, execFhadq, checkQp_of_le hqp, ok_bind, readSlot_of_slotIs hWD, ok_bind, quantDc_blockOf hZ]

/-- Settles O49: the model's table is the rule's. -/
theorem iquantScalesTheBlock : Obligations.IquantScalesTheBlock := by
  intro s d src dc Z D hqp hZ hD
  refine ends_of_storeBlock ?_
  rw [exec, execIquant, checkQp_of_le hqp, ok_bind, readSlot_of_slotIs hZ, ok_bind, dequantBlock_blockOf hD]

/-- Settles O50: the elements of the source fit a slot, so those of the inverse transform do. -/
theorem idctIsTheInverseTransform : Obligations.IdctIsTheInverseTransform := by
  intro s d src D hD
  exact (ends_of_storeBlock (exec_idct d hD)).1 (fitsSlot_inverseOf (fitsSlot_of_slotIs hD))

/-- Settles O51: the model scales the same transform on each side of `QP = 12`. -/
theorem ihadqScalesTheHadamardTransform : Obligations.IhadqScalesTheHadamardTransform := by
  intro s d src C D hqp hC hD
  refine ends_of_storeBlock ?_
  rw [exec, execIhadq, checkQp_of_le hqp, ok_bind, readSlot_of_slotIs hC, ok_bind, dequantDc_blockOf hD]

/-- Settles O52: `Cs` is the model's, and is the prediction term when the coefficients are zero. -/
theorem presReconstructsTheResidual : Obligations.PresReconstructsTheResidual := by
  intro s d src u X F hqp hX hF
  have hexec := exec_pres d hqp hX hF
  obtain ⟨hfits, hoverflows⟩ := ends_of_storeBlock hexec
  refine ⟨hfits, hoverflows, ?_⟩
  rintro rfl
  rw [hexec, presSum_zero, exec_idct d hF]

end Sys2Proof.Machine
end

section
/-! Samples (44_prediction.md R450, R457 .. R459): reads that can stop in one way only, reads of a buffer or a frame, what a
write of `PRED` or of `REC` leaves, and the commands that move samples. -/

namespace Sys2Proof.Machine

/-! Computations that can stop in one way only: a part that stops hides no other end. -/

section
variable {α β : Type}

/-- Whatever stops the computation is `e`. -/
def stopsOnlyWith (e : Stop) (c : Cmd α) : Prop := ∀ x, c = .error x → x = e

/-- A part that is reached only if the parts before it answer ends the computation, where those could end it in no other
way. -/
theorem bind_eq_error_of_stopsOnlyWith {e : Stop} {c : Cmd α} {f : α → Cmd β} (hc : stopsOnlyWith e c)
    (hf : ∀ a, c = .ok a → f a = .error e) : c >>= f = .error e := by
  cases h : c with
  | ok a => rw [ok_bind, hf a h]
  | error x => rw [error_bind, hc x h]

theorem stopsOnlyWith_bind {e : Stop} {c : Cmd α} {f : α → Cmd β} (hc : stopsOnlyWith e c)
    (hf : ∀ a, stopsOnlyWith e (f a)) : stopsOnlyWith e (c >>= f) := fun x hx =>
  (bind_eq_error.mp hx).elim (hc x) fun ⟨a, _, ha⟩ => hf a x ha

theorem stopsOnlyWith_pure (e : Stop) (a : α) : stopsOnlyWith e (pure a) := nofun

theorem stopsOnlyWith_readEach {e : Stop} {f : β → Cmd α} (hf : ∀ b, stopsOnlyWith e (f b)) (l : List β) :
    stopsOnlyWith e (readEach f l) := fun x hx => by
  obtain ⟨b, -, hb⟩ := readEach_eq_error hx
  exact hf b x hb

end

/-! Reads of samples. -/

section
variable {m : Cells Byte} {key : Nat} {x : Int}

theorem readSample_eq_ok_iff_sampleIs : readSample m key = .ok x ↔ sampleIs m key x := readSample_eq_ok

theorem sampleIs_bounds (h : sampleIs m key x) : 0 ≤ x ∧ x ≤ 255 := by
  obtain ⟨v, -, rfl⟩ := h
  omega

theorem toNat_toByte (hlo : 0 ≤ x) (hhi : x ≤ 255) : ((toByte x).toNat : Int) = x := by
  rw [toByte, BitVec.toNat_ofInt]
  omega

theorem stopsOnlyWith_readSample (m : Cells Byte) (key : Nat) :
    stopsOnlyWith (.fault .undefinedRead) (readSample m key) := fun _ hx => (readSample_eq_error.mp hx).2

theorem readEach_readSample {n : Nat} {keys : Nat → Nat} {f : Nat → Int} (h : ∀ k < n, sampleIs m (keys k) (f k)) :
    readEach (fun k => readSample m (keys k)) (List.range n) = .ok ((List.range n).map f) :=
  readEach_of_forall fun k hk => readSample_eq_ok_iff_sampleIs.mpr (h k (List.mem_range.mp hk))

theorem readEach_readSample_of_unwritten {n : Nat} {keys : Nat → Nat} (h : ∃ k < n, cellRead m (keys k) = none) :
    readEach (fun k => readSample m (keys k)) (List.range n) = .error (.fault .undefinedRead) := by
  obtain ⟨k, hk, hkey⟩ := h
  exact readEach_fault (fun b _ => stopsOnlyWith_readSample m (keys b))
    ⟨k, List.mem_range.mpr hk, readSample_eq_error.mpr ⟨hkey, rfl⟩⟩

theorem div_raster {y x : Nat} (hx : x < 16) : (16 * y + x) / 16 = y := by omega

theorem mod_raster {y x : Nat} (hx : x < 16) : (16 * y + x) % 16 = x := by omega

theorem readSamples_of_is {f : Nat → Nat → Int} (h : ∀ y < 16, ∀ x < 16, sampleIs m (16 * y + x) (f y x)) :
    readSamples m = .ok (mkSamples f) :=
  readEach_readSample (keys := id) (f := fun k => f (k / 16) (k % 16)) fun k hk => by
    simpa only [id, Nat.div_add_mod] using h (k / 16) (by omega) (k % 16) (by omega)

theorem readSamples_of_unwritten (h : ∃ k < 256, cellRead m k = none) :
    readSamples m = .error (.fault .undefinedRead) := readEach_readSample_of_unwritten (keys := id) h

end

/-! Reads of a 4×4 block of a buffer (30_encoding.md R169). -/

/-- The row in the macroblock of the block's sample with raster index `k`. -/
def blockRow (byy : Two) (k : Nat) : Nat := 4 * byy.toNat + k / 4

/-- The column in the macroblock of the block's sample with raster index `k`. -/
def blockColumn (bx : Two) (k : Nat) : Nat := 4 * bx.toNat + k % 4

theorem blockRow_raster (byy : Two) (r c : Fin 4) : blockRow byy (4 * r.val + c.val) = 4 * byy.toNat + r.val := by
  rw [blockRow]
  omega

theorem blockColumn_raster (bx : Two) (r c : Fin 4) : blockColumn bx (4 * r.val + c.val) = 4 * bx.toNat + c.val := by
  rw [blockColumn]
  omega

theorem blockSample_eq (m : Cells Byte) (bx byy : Two) :
    blockSample m bx byy = fun k => readSample m (bufKey (blockRow byy k) (blockColumn bx k)) := rfl

theorem vectorView_of_lt (X : Matrix4) {k : Nat} (hk : k < 16) :
    vectorView X k = X ⟨k / 4, by omega⟩ ⟨k % 4, by omega⟩ := by
  have hrow : k / 4 < 4 := by omega
  simp only [vectorView, Fin.ofNat, Nat.mod_eq_of_lt hrow, Nat.mod_mod]

section
variable {m : Cells Byte} {bx byy : Two}

theorem readBlock_of_is {X : Matrix4} (h : ∀ r c, blockSampleIs m bx byy r c (X r c)) :
    readEach (blockSample m bx byy) (List.range 16) = .ok (blockOf X) := by
  rw [blockSample_eq, blockOf_eq_map]
  exact readEach_readSample fun k hk => vectorView_of_lt X hk ▸ h ⟨k / 4, by omega⟩ ⟨k % 4, by omega⟩

theorem stopsOnlyWith_readBlock (m : Cells Byte) (bx byy : Two) :
    stopsOnlyWith (.fault .undefinedRead) (readEach (blockSample m bx byy) (List.range 16)) :=
  stopsOnlyWith_readEach (fun _ => stopsOnlyWith_readSample m _) _

theorem readBlock_of_unwritten {r c : Fin 4} (h : blockSampleUnwritten m bx byy r c) :
    readEach (blockSample m bx byy) (List.range 16) = .error (.fault .undefinedRead) := by
  rw [blockSample_eq]
  refine readEach_readSample_of_unwritten ⟨4 * r.val + c.val, by omega, ?_⟩
  rw [blockRow_raster, blockColumn_raster]
  exact h

end

/-! Writes of `PRED` (10_state.md R74). -/

theorem getD_mkSamples (f : Nat → Nat → Int) {y x : Nat} (hy : y < 16) (hx : x < 16) :
    (mkSamples f).getD (16 * y + x) 0 = f y x := by
  rw [mkSamples, List.getD, List.getElem?_map, List.getElem?_range (by omega), Option.map_some, div_raster hx, mod_raster hx]
  rfl

theorem mkSamples_congr {f g : Nat → Nat → Int} (h : ∀ y < 16, ∀ x < 16, f y x = g y x) : mkSamples f = mkSamples g :=
  List.map_congr_left fun k hk => by
    have hk := List.mem_range.mp hk
    exact h _ (by omega) _ (by omega)

/-- A command that writes a prediction of samples, and completes. -/
theorem predStored_writePred (s : State) {f : Nat → Nat → Int} (h : ∀ y < 16, ∀ x < 16, 0 ≤ f y x ∧ f y x ≤ 255) :
    predStored s (complete (writePred s (mkSamples f))) f := by
  refine ⟨fun y hy x hx => ?samples, fun k hk => ?frame, complete_busy _, complete_done _,
    by simp only [complete, writePred]⟩
  case samples =>
    obtain ⟨hlo, hhi⟩ := h y hy x hx
    refine ⟨toByte (f y x), ?_, toNat_toByte hlo hhi⟩
    rw [complete_pred, cellRead_writePred, if_pos (by omega), getD_mkSamples f hy hx]
  case frame => rw [complete_pred, cellRead_writePred, if_neg (by omega)]

/-! Writes of `REC` (44_prediction.md R450, R458, R459). -/

/-- A list of entries with no key twice holds each of them. -/
theorem cellRead_map_of_mem {α β : Type} {key : β → Nat} {g : β → α} {l : List β} {b : β} (hb : b ∈ l)
    (hkey : ∀ b' ∈ l, key b' = key b → b' = b) : cellRead (l.map fun b => (key b, g b)) (key b) = some (g b) := by
  induction l with
  | nil => simp at hb
  | cons c l ih =>
    rw [List.map_cons, cellRead_cons]
    by_cases hc : key c = key b
    · rw [if_pos hc, hkey c (by simp) hc]
    · rw [if_neg hc]
      have hbl : b ∈ l := (List.mem_cons.mp hb).resolve_left fun h => hc (h ▸ rfl)
      exact ih hbl fun b' hb' => hkey b' (List.mem_cons_of_mem c hb')

/-- Two samples of the macroblock never share a place in `REC` (log 6). -/
theorem recKey_injective {s : State} {y x y' x' : Nat} (hx : x < 16) (hx' : x' < 16) (h : recKey s y x = recKey s y' x') :
    y = y' ∧ x = x' := by
  have hmbx : mbx s < 256 := Nat.mod_lt _ (by decide)
  simp only [recKey, frameKey] at h
  omega

/-- The entries of `REC` for the samples `f` at the places `ys`, `xs` of the macroblock. -/
def recEntries (s : State) (n : Nat) (ys xs : Nat → Nat) (f : Nat → Int) : List (Nat × Byte) :=
  (List.range n).map fun k => recEntry s (ys k) (xs k) (f k)

section
variable {s : State} {n : Nat} {ys xs : Nat → Nat} {f : Nat → Int}

theorem sampleIs_writeRec {k : Nat} (hk : k < n) (hf : 0 ≤ f k ∧ f k ≤ 255) (hxs : ∀ j < n, xs j < 16)
    (hinj : ∀ j < n, ys j = ys k → xs j = xs k → j = k) :
    sampleIs (complete (writeRec s (recEntries s n ys xs f))).recFrame (recKey s (ys k) (xs k)) (f k) := by
  refine ⟨toByte (f k), ?_, toNat_toByte hf.1 hf.2⟩
  have hread : cellRead (recEntries s n ys xs f) (recKey s (ys k) (xs k)) = some (toByte (f k)) := by
    refine cellRead_map_of_mem (key := fun k => recKey s (ys k) (xs k)) (g := fun k => toByte (f k))
      (List.mem_range.mpr hk) fun j hj hkeys => ?_
    have hj := List.mem_range.mp hj
    obtain ⟨hy, hx⟩ := recKey_injective (hxs j hj) (hxs k hk) hkeys
    exact hinj j hj hy hx
  rw [complete_recFrame, writeRec_recFrame, cellRead_cellWriteAll, hread]
  rfl

theorem cellRead_writeRec_of_ne {key : Nat} (h : ∀ k < n, key ≠ recKey s (ys k) (xs k)) :
    cellRead (complete (writeRec s (recEntries s n ys xs f))).recFrame key = cellRead s.recFrame key := by
  have hread : cellRead (recEntries s n ys xs f) key = none := by
    refine (cellRead_eq_none_iff _ _).mpr fun e he => ?_
    obtain ⟨k, hk, rfl⟩ := List.mem_map.mp he
    exact (h k (List.mem_range.mp hk)).symm
  rw [complete_recFrame, writeRec_recFrame, cellRead_cellWriteAll, hread]
  rfl

theorem complete_writeRec_frame (s : State) (es : List (Nat × Byte)) :
    { complete (writeRec s es) with recFrame := s.recFrame, busy := s.busy, done := s.done } = s := by
  simp only [complete, writeRec]

end

/-! The residual (44_prediction.md R457) and its reconstruction (R458). -/

theorem zipWith_sub_blockOf (A P : Matrix4) : List.zipWith (fun x y => x - y) (blockOf A) (blockOf P) = blockOf (A - P) := by
  rw [blockOf_eq_map, blockOf_eq_map, blockOf_eq_map, List.zipWith_map, List.zipWith_self]
  rfl

section
variable {s : State} {slot : Slot} {bx byy : Two} {A P X : Matrix4}

theorem exec_rsub_of_is (hA : ∀ r c, blockSampleIs s.src bx byy r c (A r c))
    (hP : ∀ r c, blockSampleIs s.pred bx byy r c (P r c)) :
    exec (.rsub slot bx byy) s = .next (complete (writeSlot s slot (blockOf (A - P)))) := by
  rw [exec, execRsub, readBlock_of_is hA, ok_bind, readBlock_of_is hP, ok_bind, zipWith_sub_blockOf, pure_eq_ok,
    runCommand_ok]

/-- A difference of samples fits a slot. -/
theorem fitsSlot_sub_of_is (hA : ∀ r c, blockSampleIs s.src bx byy r c (A r c))
    (hP : ∀ r c, blockSampleIs s.pred bx byy r c (P r c)) (r c : Fin 4) : fitsSlot ((A - P) r c) := by
  have hAb := sampleIs_bounds (hA r c)
  have hPb := sampleIs_bounds (hP r c)
  rw [Matrix.sub_apply, fitsSlot]
  omega

theorem slotStored_of_rsub (hA : ∀ r c, blockSampleIs s.src bx byy r c (A r c))
    (hP : ∀ r c, blockSampleIs s.pred bx byy r c (P r c)) (slot : Slot) :
    slotStored s (complete (writeSlot s slot (blockOf (A - P)))) slot (A - P) := by
  have hstored := slotStored_writeSlot s slot (forall_mem_blockOf.mpr (fitsSlot_sub_of_is hA hP))
  rwa [matrixView_blockOf] at hstored

/-- What `RECON` writes at raster index `k` (44_prediction.md R458). -/
def reconSample (P X : Matrix4) (k : Nat) : Int := clip1 ((blockOf P).getD k 0 + (blockOf X).getD k 0)

theorem reconSample_raster (P X : Matrix4) (r c : Fin 4) :
    reconSample P X (4 * r.val + c.val) = max 0 (min 255 (P r c + X r c)) := by
  have hP : (blockOf P).getD (4 * r.val + c.val) 0 = P r c := at_blockOf P r c
  have hX : (blockOf X).getD (4 * r.val + c.val) 0 = X r c := at_blockOf X r c
  rw [reconSample, hP, hX, clip1, clip3]
  omega

/-- The state that `RECON` leaves. -/
def reconstructed (s : State) (bx byy : Two) (P X : Matrix4) : State :=
  complete (writeRec s (recEntries s 16 (blockRow byy) (blockColumn bx) (reconSample P X)))

theorem exec_recon_of_is (hpicture : s.inPicture) (hP : ∀ r c, blockSampleIs s.pred bx byy r c (P r c))
    (hX : s.slotIs slot X) : exec (.recon slot bx byy) s = .next (reconstructed s bx byy P X) := by
  rw [exec, execRecon, checkPicture_of_inPicture hpicture, ok_bind, readBlock_of_is hP, ok_bind, readSlot_of_slotIs hX,
    ok_bind, pure_eq_ok, runCommand_ok]
  rfl

theorem sampleIs_reconstructed (s : State) (bx byy : Two) (P X : Matrix4) (r c : Fin 4) :
    sampleIs (reconstructed s bx byy P X).recFrame (recKey s (4 * byy.toNat + r.val) (4 * bx.toNat + c.val))
      (max 0 (min 255 (P r c + X r c))) := by
  have hsample := sampleIs_writeRec (s := s) (n := 16) (ys := blockRow byy) (xs := blockColumn bx)
    (f := reconSample P X) (k := 4 * r.val + c.val) (by omega) (by rw [reconSample_raster]; omega)
    (fun j _ => by rw [blockColumn]; omega) (fun j _ hy hx => by simp only [blockRow, blockColumn] at hy hx; omega)
  rwa [reconSample_raster, blockRow_raster, blockColumn_raster] at hsample

theorem cellRead_reconstructed_of_ne (P X : Matrix4) {key : Nat}
    (h : ∀ r c : Fin 4, key ≠ recKey s (4 * byy.toNat + r.val) (4 * bx.toNat + c.val)) :
    cellRead (reconstructed s bx byy P X).recFrame key = cellRead s.recFrame key :=
  cellRead_writeRec_of_ne fun k hk => h ⟨k / 4, by omega⟩ ⟨k % 4, by omega⟩

end

/-- The state that `RCOPY` leaves (44_prediction.md R459). -/
def copied (s : State) (f : Nat → Nat → Int) : State :=
  complete (writeRec s (recEntries s 256 (· / 16) (· % 16) fun k => f (k / 16) (k % 16)))

section
variable {s : State} {f : Nat → Nat → Int}

theorem exec_rcopy_of_is (hpicture : s.inPicture) (h : ∀ y < 16, ∀ x < 16, sampleIs s.pred (16 * y + x) (f y x)) :
    exec .rcopy s = .next (copied s f) := by
  have hentries : (List.range 256).map (fun k => recEntry s (k / 16) (k % 16) ((mkSamples f).getD k 0))
      = recEntries s 256 (· / 16) (· % 16) fun k => f (k / 16) (k % 16) :=
    List.map_congr_left fun k hk => by
      have hk := List.mem_range.mp hk
      have hsample := getD_mkSamples f (y := k / 16) (x := k % 16) (by omega) (by omega)
      rw [Nat.div_add_mod] at hsample
      rw [hsample]
  rw [exec, execRcopy, checkPicture_of_inPicture hpicture, ok_bind, readSamples_of_is h, ok_bind, hentries, pure_eq_ok,
    runCommand_ok, copied]

theorem sampleIs_copied {y x : Nat} (hy : y < 16) (hx : x < 16) (hf : 0 ≤ f y x ∧ f y x ≤ 255) :
    sampleIs (copied s f).recFrame (recKey s y x) (f y x) := by
  have hdiv := div_raster (y := y) hx
  have hmod := mod_raster (y := y) hx
  have hsample := sampleIs_writeRec (s := s) (n := 256) (ys := (· / 16)) (xs := (· % 16))
    (f := fun k => f (k / 16) (k % 16)) (k := 16 * y + x) (by omega) (by rwa [hdiv, hmod])
    (fun j _ => Nat.mod_lt j (by decide)) (fun j _ hy hx => by omega)
  rwa [hdiv, hmod] at hsample

theorem cellRead_copied_of_ne (f : Nat → Nat → Int) {key : Nat} (h : ∀ y < 16, ∀ x < 16, key ≠ recKey s y x) :
    cellRead (copied s f).recFrame key = cellRead s.recFrame key :=
  cellRead_writeRec_of_ne fun k hk => h (k / 16) (by omega) (k % 16) (by omega)

end

/-- Settles O55: the two blocks are read in turn, and either read can only fault. -/
theorem rsubStoresTheResidual : Obligations.RsubStoresTheResidual := by
  intro s slot bx byy
  refine ⟨fun A P hA hP => ⟨_, exec_rsub_of_is hA hP, slotStored_of_rsub hA hP slot⟩, ?faults⟩
  case faults =>
    rintro ⟨r, c, hsrc | hpred⟩
    · rw [exec, execRsub, readBlock_of_unwritten hsrc, error_bind, runCommand_fault]
    · rw [exec, execRsub, bind_eq_error_of_stopsOnlyWith (stopsOnlyWith_readBlock s.src bx byy), runCommand_fault]
      intro _ _
      rw [readBlock_of_unwritten hpred, error_bind]

/-- Settles O56: no two samples of a macroblock share a place in `REC`, so each keeps what is written for it. -/
theorem reconAndRcopyWriteTheFrame : Obligations.ReconAndRcopyWriteTheFrame := by
  intro s slot bx byy hpicture
  refine ⟨fun P X hP hX => ?recon, fun f hf => ?rcopy, ?reconFaults, fun hunwritten => ?rcopyFaults⟩
  case recon =>
    exact ⟨_, exec_recon_of_is hpicture hP hX, sampleIs_reconstructed s bx byy P X,
      fun _ => cellRead_reconstructed_of_ne P X, complete_busy _, complete_done _, complete_writeRec_frame s _⟩
  case rcopy =>
    exact ⟨_, exec_rcopy_of_is hpicture hf, fun y hy x hx => sampleIs_copied hy hx (sampleIs_bounds (hf y hy x hx)),
      fun _ => cellRead_copied_of_ne f, complete_busy _, complete_done _, complete_writeRec_frame s _⟩
  case reconFaults =>
    rintro ⟨r, c, hpred | hslot⟩
    · rw [exec, execRecon, checkPicture_of_inPicture hpicture, ok_bind, readBlock_of_unwritten hpred, error_bind,
        runCommand_fault]
    · rw [exec, execRecon, checkPicture_of_inPicture hpicture, ok_bind,
        bind_eq_error_of_stopsOnlyWith (stopsOnlyWith_readBlock s.pred bx byy), runCommand_fault]
      intro _ _
      rw [readSlot_of_unwritten ⟨r, c, hslot⟩, error_bind]
  case rcopyFaults =>
    rw [exec, execRcopy, checkPicture_of_inPicture hpicture, ok_bind, readSamples_of_unwritten hunwritten, error_bind,
      runCommand_fault]

end Sys2Proof.Machine
end

section
/-! Motion (44_prediction.md R460 .. R467): what a read of the motion-vector grid answers, the median of the neighbours, the
vector of the current macroblock and the copy that it displaces. -/

namespace Sys2Proof.Machine

/-! Reads of the grid (44_prediction.md R460). -/

section
variable {s : State} {mx my : Nat}

theorem readMv_of_valid {c : MvCell} (h : cellRead s.mvg (mvKey mx my) = some c) (hc : c.valid = true) :
    readMv s mx my = .ok (c.mvx.toInt, c.mvy.toInt) := by
  simp only [readMv, h, hc, if_true, pure_eq_ok]

/-- A cell that is not listed is not valid either. -/
theorem readMv_of_missing (h : ∀ c, cellRead s.mvg (mvKey mx my) = some c → c.valid = false) :
    readMv s mx my = .error (.raise .contextNotWritten (here s)) := by
  unfold readMv
  split
  case h_1 c hc => rw [h c hc, if_neg Bool.false_ne_true, raise_eq]
  case h_2 => rfl

variable {avail : Prop} [Decidable avail]

theorem mvNeighbour_of_is {v : Option MotionVector} (h : s.vectorIs avail mx my v) :
    mvNeighbour s (decide avail) mx my = .ok v := by
  obtain ⟨hinside, houtside⟩ := h
  by_cases havail : avail
  · obtain ⟨c, hc, hvalid, rfl⟩ := hinside havail
    rw [mvNeighbour, if_pos (decide_eq_true havail), readMv_of_valid hc hvalid, ok_bind, pure_eq_ok]
  · rw [mvNeighbour, if_neg (by simpa using havail), houtside havail, pure_eq_ok]

theorem mvNeighbour_of_missing (h : s.vectorMissing avail mx my) :
    mvNeighbour s (decide avail) mx my = .error (.raise .contextNotWritten (here s)) := by
  obtain ⟨havail, hcell⟩ := h
  rw [mvNeighbour, if_pos (decide_eq_true havail), readMv_of_missing hcell, error_bind]

/-- A neighbour answers, or its read raises `ContextNotWritten`. -/
theorem vectorIs_or_missing (s : State) (avail : Prop) (mx my : Nat) :
    (∃ v, s.vectorIs avail mx my v) ∨ s.vectorMissing avail mx my := by
  by_cases havail : avail
  · by_cases hcell : ∃ c, cellRead s.mvg (mvKey mx my) = some c ∧ c.valid = true
    · obtain ⟨c, hc, hvalid⟩ := hcell
      exact .inl ⟨_, fun _ => ⟨c, hc, hvalid, rfl⟩, fun h => absurd havail h⟩
    · exact .inr ⟨havail, fun c hc => Bool.eq_false_iff.mpr fun hvalid => hcell ⟨c, hc, hvalid⟩⟩
  · exact .inl ⟨none, fun h => absurd h havail, fun _ => rfl⟩

theorem stopsOnlyWith_mvNeighbour (s : State) (avail : Prop) [Decidable avail] (mx my : Nat) :
    stopsOnlyWith (.raise .contextNotWritten (here s)) (mvNeighbour s (decide avail) mx my) := by
  intro x hx
  obtain ⟨v, hv⟩ | hmissing := vectorIs_or_missing s avail mx my
  · rw [mvNeighbour_of_is hv] at hx
    cases hx
  · rw [mvNeighbour_of_missing hmissing] at hx
    cases hx
    rfl

end

/-! The predictor (44_prediction.md R461, R462). -/

theorem median3_eq_middleOf (a b c : Int) : median3 a b c = middleOf a b c := by
  unfold median3 middleOf
  omega

theorem mvPredictor_eq_vectorOf (a b c : Option MotionVector) : mvPredictor a b c = vectorOf a b c := by
  unfold mvPredictor vectorOf
  simp only [Option.orElse_eq_orElse, Option.orElse_eq_or]
  split
  case h_1 hnone =>
    obtain ⟨rfl, rfl, rfl⟩ : a = none ∧ b = none ∧ c = none := by simpa using hnone
    rfl
  case h_2 first hfirst => simp only [hfirst, Option.getD_some, median3_eq_middleOf]

/-- The components of the vector fit the fields of a cell (10_state.md R78). -/
def fitsCell (v : MotionVector) : Prop := (-32768 ≤ v.1 ∧ v.1 ≤ 32767) ∧ -32768 ≤ v.2 ∧ v.2 ≤ 32767

theorem fitsCell_of_vectorIs {s : State} {avail : Prop} {mx my : Nat} {v : Option MotionVector}
    (h : s.vectorIs avail mx my v) : ∀ w ∈ v, fitsCell w := by
  intro w hw
  by_cases havail : avail
  · obtain ⟨c, -, -, rfl⟩ := h.1 havail
    obtain rfl := Option.some.inj hw
    have hx := BitVec.le_toInt c.mvx
    have hx' := BitVec.toInt_lt (x := c.mvx)
    have hy := BitVec.le_toInt c.mvy
    have hy' := BitVec.toInt_lt (x := c.mvy)
    simp only [fitsCell]
    omega
  · rw [h.2 havail] at hw
    cases hw

theorem fitsCell_getD {v : Option MotionVector} {w : MotionVector} (hv : ∀ u ∈ v, fitsCell u) (hw : fitsCell w) :
    fitsCell (v.getD w) := by
  cases v with
  | none => exact hw
  | some u => exact hv u rfl

theorem fitsCell_vectorOf {a b c : Option MotionVector} (ha : ∀ v ∈ a, fitsCell v) (hb : ∀ v ∈ b, fitsCell v)
    (hc : ∀ v ∈ c, fitsCell v) : fitsCell (vectorOf a b c) := by
  have hfirst : fitsCell ((a.or (b.or c)).getD (0, 0)) := by
    refine fitsCell_getD (fun v hv => ?_) ⟨by decide, by decide⟩
    obtain ha' | ⟨-, hbc⟩ := Option.or_eq_some_iff.mp hv
    · exact ha v ha'
    · obtain hb' | ⟨-, hc'⟩ := Option.or_eq_some_iff.mp hbc
      · exact hb v hb'
      · exact hc v hc'
  have ha' := fitsCell_getD ha hfirst
  have hb' := fitsCell_getD hb hfirst
  have hc' := fitsCell_getD hc hfirst
  simp only [fitsCell, vectorOf, middleOf] at ha' hb' hc' ⊢
  omega

/-! The packed vector (44_prediction.md R463). -/

theorem packMv_eq_append (v : MotionVector) : packMv v = BitVec.ofInt 16 v.2 ++ BitVec.ofInt 16 v.1 := by
  apply BitVec.eq_of_toNat_eq
  have hx := (BitVec.ofInt 16 v.1).isLt
  have hy := (BitVec.ofInt 16 v.2).isLt
  rw [toNat_append_eq_mul_add, packMv, BitVec.toNat_ofNat, Nat.mod_eq_of_lt (by omega)]

theorem extract_packMv_low (v : MotionVector) : (packMv v).extractLsb' 0 16 = BitVec.ofInt 16 v.1 := by
  rw [packMv_eq_append]
  exact BitVec.extractLsb'_append_eq_right

theorem extract_packMv_high (v : MotionVector) : (packMv v).extractLsb' 16 16 = BitVec.ofInt 16 v.2 := by
  rw [packMv_eq_append]
  exact BitVec.extractLsb'_append_eq_left

theorem toInt_ofInt_of_fits_half {x : Int} (hlo : -32768 ≤ x) (hhi : x ≤ 32767) : (BitVec.ofInt 16 x).toInt = x := by
  rw [BitVec.toInt_ofInt, Int.bmod_eq_of_le] <;> norm_num <;> omega

/-! `MVPRED` (44_prediction.md R463). -/

section
variable {s : State} {a b c : Option MotionVector}

theorem predictMv_eq (s : State) : predictMv s = (do
    let a ← mvNeighbour s (decide (0 < mbx s)) (mbx s - 1) (mby s)
    let b ← mvNeighbour s (decide (0 < mby s)) (mbx s) (mby s - 1)
    let c ← mvNeighbour s (decide (0 < mby s ∧ mbx s + 1 < wmbs s)) (mbx s + 1) (mby s - 1)
    pure (vectorOf a b c)) := by
  simp only [predictMv, Bool.decide_and, mvPredictor_eq_vectorOf]

theorem predictMv_of_is (ha : s.vectorIs (0 < mbx s) (mbx s - 1) (mby s) a)
    (hb : s.vectorIs (0 < mby s) (mbx s) (mby s - 1) b)
    (hc : s.vectorIs (0 < mby s ∧ mbx s + 1 < wmbs s) (mbx s + 1) (mby s - 1) c) :
    predictMv s = .ok (vectorOf a b c) := by
  rw [predictMv_eq, mvNeighbour_of_is ha, ok_bind, mvNeighbour_of_is hb, ok_bind, mvNeighbour_of_is hc, ok_bind, pure_eq_ok]

theorem predictMv_of_missing (h : s.vectorMissing (0 < mbx s) (mbx s - 1) (mby s) ∨
      s.vectorMissing (0 < mby s) (mbx s) (mby s - 1) ∨
      s.vectorMissing (0 < mby s ∧ mbx s + 1 < wmbs s) (mbx s + 1) (mby s - 1)) :
    predictMv s = .error (.raise .contextNotWritten (here s)) := by
  rw [predictMv_eq]
  obtain ha | hb | hc := h
  · rw [mvNeighbour_of_missing ha, error_bind]
  · refine bind_eq_error_of_stopsOnlyWith (stopsOnlyWith_mvNeighbour _ _ _ _) fun _ _ => ?_
    rw [mvNeighbour_of_missing hb, error_bind]
  · refine bind_eq_error_of_stopsOnlyWith (stopsOnlyWith_mvNeighbour _ _ _ _) fun _ _ => ?_
    refine bind_eq_error_of_stopsOnlyWith (stopsOnlyWith_mvNeighbour _ _ _ _) fun _ _ => ?_
    rw [mvNeighbour_of_missing hc, error_bind]

theorem exec_mvpred_of_is (hpicture : s.inPicture) (ha : s.vectorIs (0 < mbx s) (mbx s - 1) (mby s) a)
    (hb : s.vectorIs (0 < mby s) (mbx s) (mby s - 1) b)
    (hc : s.vectorIs (0 < mby s ∧ mbx s + 1 < wmbs s) (mbx s + 1) (mby s - 1) c) :
    exec .mvpred s = .next (complete { s with res := packMv (vectorOf a b c) }) := by
  rw [exec, execMvpred, checkPicture_of_inPicture hpicture, ok_bind, predictMv_of_is ha hb hc, ok_bind, pure_eq_ok,
    runCommand_ok]

end

/-- Settles O57: the median of three components lies among them, so it fits its half of `RES`. -/
theorem mvpredReturnsTheMedian : Obligations.MvpredReturnsTheMedian := by
  intro s hpicture
  refine ⟨fun a b c ha hb hc => ?median, fun hmissing => ?missing⟩
  case median =>
    obtain ⟨hx, hy⟩ := fitsCell_vectorOf (fitsCell_of_vectorIs ha) (fitsCell_of_vectorIs hb) (fitsCell_of_vectorIs hc)
    refine ⟨_, exec_mvpred_of_is hpicture ha hb hc, ?_, ?_, rfl, rfl, rfl⟩
    · rw [complete_res, extract_packMv_low, toInt_ofInt_of_fits_half hx.1 hx.2]
    · rw [complete_res, extract_packMv_high, toInt_ofInt_of_fits_half hy.1 hy.2]
  case missing =>
    rw [exec, execMvpred, checkPicture_of_inPicture hpicture, ok_bind, predictMv_of_missing hmissing, error_bind,
      runCommand_raise, here]

/-! `MVSET` (44_prediction.md R464). -/

theorem mvCellOf_append (v : Word) : (mvCellOf v).mvy ++ (mvCellOf v).mvx = v :=
  BitVec.extractLsb'_append_extractLsb'_eq_extractLsb' (by decide) |>.trans (by simp)

/-- Settles O58: one cell of the grid is written, with the halves of the word. -/
theorem mvsetStoresTheVector : Obligations.MvsetStoresTheVector := by
  intro s res hpicture
  have hexec : exec (.mvset res) s = .next (complete
      { s with mvg := cellWrite (mvKey (mbx s) (mby s)) (mvCellOf (if res then s.res else s.opr)) s.mvg }) := by
    rw [exec, execMvset, checkPicture_of_inPicture hpicture, ok_bind, pure_eq_ok, runCommand_ok]
  exact ⟨_, _, hexec, cellRead_cellWrite_self .., rfl, mvCellOf_append _,
    fun k hk => cellRead_cellWrite_of_ne hk.symm _ _, rfl, rfl, rfl⟩

/-! `MCOPY` (44_prediction.md R465 .. R467). -/

theorem mvOffset_eq_offsetOf (shift : MvShift) (v : Int) : mvOffset shift v = offsetOf shift v := by
  cases shift with
  | whole => rfl
  | quarter => exact ((Int.shiftRight_natCast_right v 2).trans (Int.shiftRight_eq_div_pow v 2)).symm

/-- The two ways of writing a clamp agree where the bounds are in order. -/
theorem clip3_zero_eq {hi : Int} (h : 0 ≤ hi) (x : Int) : clip3 0 hi x = max 0 (min hi x) := by
  unfold clip3
  omega

section
variable {s : State} {c : MvCell}

theorem refKey_eq_referenceKey (hpicture : s.inPicture) (v : MotionVector) (y x : Nat) :
    refKey s v y x = referenceKey s v.1 v.2 y x := by
  obtain ⟨hw, -, hh, -⟩ := hpicture
  have hrow : (0 : Int) ≤ 16 * (hmbs s : Int) - 1 := by omega
  have hcolumn : (0 : Int) ≤ 16 * (wmbs s : Int) - 1 := by omega
  simp only [refKey, referenceKey, planeH, planeW, originY, originX, mvOffset_eq_offsetOf, Nat.cast_mul, Nat.cast_ofNat,
    clip3_zero_eq hrow, clip3_zero_eq hcolumn]

theorem exec_mcopy_of_valid (hpicture : s.inPicture) (hc : cellRead s.mvg (mvKey (mbx s) (mby s)) = some c)
    (hvalid : c.valid = true) : exec .mcopy s = runCommand s (do
      let p ← readEach (fun k =>
        readSample s.refFrame (referenceKey s c.mvx.toInt c.mvy.toInt (k / 16) (k % 16))) (List.range 256)
      pure (writePred s p)) := by
  rw [exec, execMcopy, checkPicture_of_inPicture hpicture, ok_bind, readMv_of_valid hc hvalid, ok_bind]
  simp only [refKey_eq_referenceKey hpicture]

end

/-- Settles O59: the reads are those of the clamped addresses, and can only fault. -/
theorem mcopyCopiesTheDisplacedBlock : Obligations.McopyCopiesTheDisplacedBlock := by
  intro s hpicture
  refine ⟨fun ⟨_, hcell⟩ => ?missing, fun c hc hvalid => ⟨fun f hf => ?copies, fun hunwritten => ?faults⟩⟩
  case missing =>
    rw [exec, execMcopy, checkPicture_of_inPicture hpicture, ok_bind, readMv_of_missing hcell, error_bind,
      runCommand_raise, here]
  case copies =>
    refine ⟨_, ?_, predStored_writePred s fun y hy x hx => sampleIs_bounds (hf y hy x hx)⟩
    rw [exec_mcopy_of_valid hpicture hc hvalid, readEach_readSample (f := fun k => f (k / 16) (k % 16)) fun k hk =>
      hf (k / 16) (by omega) (k % 16) (by omega), ok_bind, pure_eq_ok, runCommand_ok]
    rfl
  case faults =>
    obtain ⟨y, hy, x, hx, hkey⟩ := hunwritten
    rw [exec_mcopy_of_valid hpicture hc hvalid,
      readEach_readSample_of_unwritten ⟨16 * y + x, by omega, by rwa [div_raster hx, mod_raster hx]⟩, error_bind,
      runCommand_fault]

end Sys2Proof.Machine
end

section
/-! Intra prediction (44_prediction.md R451 .. R455): the neighbours that are read, the prediction of each mode in the rules'
own terms, and `IPRED`. -/

namespace Sys2Proof.Machine

/-! The neighbours (44_prediction.md R451). -/

section
variable {α : Type} {c : Cmd α} {e : Stop} {avail : Prop} [Decidable avail]

theorem readIf_of_ok {a : α} (h : avail → c = .ok a) :
    readIf (decide avail) c = .ok (if avail then some a else none) := by
  by_cases havail : avail
  · rw [readIf, if_pos (decide_eq_true havail), h havail, if_pos havail, ok_bind, pure_eq_ok]
  · rw [readIf, if_neg (by simpa using havail), if_neg havail, pure_eq_ok]

theorem readIf_of_error (havail : avail) (h : c = .error e) : readIf (decide avail) c = .error e := by
  rw [readIf, if_pos (decide_eq_true havail), h, error_bind]

theorem stopsOnlyWith_readIf (h : stopsOnlyWith e c) (avail : Bool) : stopsOnlyWith e (readIf avail c) := by
  cases avail with
  | false => exact stopsOnlyWith_pure e none
  | true => exact stopsOnlyWith_bind h fun v => stopsOnlyWith_pure e (some v)

end

/-- The model's neighbours when the row above, the column to the left and the corner hold `H`, `V` and `P`. -/
def neighboursOf (s : State) (H V : Nat → Int) (P : Int) : IntraNeighbours where
  top := if 0 < mby s then some ((List.range 16).map H) else none
  left := if 0 < mbx s then some ((List.range 16).map V) else none
  corner := if 0 < mby s ∧ 0 < mbx s then some P else none

section
variable {s : State} {H V : Nat → Int} {P : Int}

/-- The three reads in their order, each made if its neighbour is inside the picture. -/
theorem intraNeighbours_eq (s : State) : intraNeighbours s = (do
    let top ← readIf (decide (0 < mby s))
      (readEach (fun x => readSample s.recFrame (frameKey (16 * mby s - 1) (16 * mbx s + x))) (List.range 16))
    let left ← readIf (decide (0 < mbx s))
      (readEach (fun y => readSample s.recFrame (frameKey (16 * mby s + y) (16 * mbx s - 1))) (List.range 16))
    let corner ← readIf (decide (0 < mby s ∧ 0 < mbx s))
      (readSample s.recFrame (frameKey (16 * mby s - 1) (16 * mbx s - 1)))
    pure ⟨top, left, corner⟩) := by
  simp only [Bool.decide_and]
  rfl

theorem intraNeighbours_of_is (h : s.intraIs H V P) : intraNeighbours s = .ok (neighboursOf s H V P) := by
  obtain ⟨hH, hV, hP⟩ := h
  rw [intraNeighbours_eq, readIf_of_ok fun htop => readEach_readSample (hH htop), ok_bind,
    readIf_of_ok fun hleft => readEach_readSample (hV hleft), ok_bind,
    readIf_of_ok fun hcorner => readSample_eq_ok_iff_sampleIs.mpr (hP hcorner.1 hcorner.2), ok_bind, pure_eq_ok]
  rfl

theorem stopsOnlyWith_readLine (m : Cells Byte) (keys : Nat → Nat) (avail : Bool) : stopsOnlyWith (.fault .undefinedRead)
    (readIf avail (readEach (fun k => readSample m (keys k)) (List.range 16))) :=
  stopsOnlyWith_readIf (stopsOnlyWith_readEach (fun k => stopsOnlyWith_readSample m (keys k)) _) avail

theorem stopsOnlyWith_intraNeighbours (s : State) : stopsOnlyWith (.fault .undefinedRead) (intraNeighbours s) := by
  rw [intraNeighbours_eq]
  exact stopsOnlyWith_bind (stopsOnlyWith_readLine _ _ _) fun _ => stopsOnlyWith_bind (stopsOnlyWith_readLine _ _ _) fun _ =>
    stopsOnlyWith_bind (stopsOnlyWith_readIf (stopsOnlyWith_readSample _ _) _) fun _ => stopsOnlyWith_pure _ _

theorem intraNeighbours_of_unwritten (h : s.intraUnwritten) : intraNeighbours s = .error (.fault .undefinedRead) := by
  rw [intraNeighbours_eq]
  obtain ⟨htop, hread⟩ | ⟨hleft, hread⟩ | ⟨htop, hleft, hread⟩ := h
  · rw [readIf_of_error htop (readEach_readSample_of_unwritten hread), error_bind]
  · refine bind_eq_error_of_stopsOnlyWith (stopsOnlyWith_readLine _ _ _) fun _ _ => ?_
    rw [readIf_of_error hleft (readEach_readSample_of_unwritten hread), error_bind]
  · refine bind_eq_error_of_stopsOnlyWith (stopsOnlyWith_readLine _ _ _) fun _ _ => ?_
    refine bind_eq_error_of_stopsOnlyWith (stopsOnlyWith_readLine _ _ _) fun _ _ => ?_
    rw [readIf_of_error ⟨htop, hleft⟩ (readSample_eq_error.mpr ⟨hread, rfl⟩), error_bind]

end

/-! The prediction of a mode (44_prediction.md R452 .. R455). -/

theorem sum_map_range (f : Nat → Int) (n : Nat) : ((List.range n).map f).sum = ∑ k ∈ Finset.range n, f k := rfl

theorem getD_map_range (f : Nat → Int) {n k : Nat} (hk : k < n) : ((List.range n).map f).getD k 0 = f k := by
  rw [List.getD, List.getElem?_map, List.getElem?_range hk]
  rfl

theorem shiftRight_five_eq_div (x : Int) : x >>> (5 : Int) = x / 32 :=
  (Int.shiftRight_natCast_right x 5).trans (Int.shiftRight_eq_div_pow x 5)

theorem shiftRight_four_eq_div (x : Int) : x >>> (4 : Int) = x / 16 :=
  (Int.shiftRight_natCast_right x 4).trans (Int.shiftRight_eq_div_pow x 4)

theorem planeGradient_eq_gradientOf (line : Nat → Int) (corner : Int) :
    planeGradient corner ((List.range 16).map line) = gradientOf line corner := by
  have hterm : ∀ k : Nat, k < 7 →
      ((List.range 16).map line).getD (8 + k) 0 - ((List.range 16).map line).getD (6 - k) 0
        = withCorner line corner (8 + k) - withCorner line corner (6 - k) := fun k hk => by
    rw [getD_map_range line (by omega), getD_map_range line (by omega), withCorner, withCorner, if_neg (by omega),
      if_neg (by omega), show (8 + (k : Int)).toNat = 8 + k by omega, show (6 - (k : Int)).toNat = 6 - k by omega]
  rw [gradientOf, Finset.sum_range_succ, planeGradient, sum_map_range, getD_map_range line (by decide)]
  refine congrArg₂ (· + ·) (Finset.sum_congr rfl fun k hk => ?_) ?_
  · rw [hterm k (Finset.mem_range.mp hk)]
  · rfl

section
variable {s : State} {H V : Nat → Int} {P : Int}

theorem dcValue_neighboursOf (s : State) (H V : Nat → Int) (P : Int) :
    dcValue (neighboursOf s H V P) = dcOf (0 < mby s) (0 < mbx s) H V := by
  unfold dcOf
  split_ifs with hboth htop hleft
  · simp only [dcValue, neighboursOf, if_pos hboth.1, if_pos hboth.2, sum_map_range, shiftRight_five_eq_div]
  · have hleft : ¬0 < mbx s := fun hleft => hboth ⟨htop, hleft⟩
    simp only [dcValue, neighboursOf, if_pos htop, if_neg hleft, sum_map_range, shiftRight_four_eq_div]
  · simp only [dcValue, neighboursOf, if_neg htop, if_pos hleft, sum_map_range, shiftRight_four_eq_div]
  · simp only [dcValue, neighboursOf, if_neg htop, if_neg hleft]

theorem planePred_eq (H V : Nat → Int) (P : Int) :
    planePred ((List.range 16).map H) ((List.range 16).map V) P = mkSamples (planeOfLines H V P) := by
  unfold planePred
  refine mkSamples_congr fun y _ x _ => ?_
  rw [planeGradient_eq_gradientOf, planeGradient_eq_gradientOf, getD_map_range _ (by decide),
    getD_map_range _ (by decide), planeOfLines, shiftRight_six_eq_div, shiftRight_six_eq_div, shiftRight_five_eq_div,
    clip1, clip3_zero_eq (by decide)]
  rfl

theorem two_cases (mode : Two) : mode = 0 ∨ mode = 1 ∨ mode = 2 ∨ mode = 3 := by
  revert mode
  decide

theorem intraPred_of_available {mode : Two} (h : s.modeAvailable mode) :
    intraPred (neighboursOf s H V P) mode = some (mkSamples (s.predictionOf H V P mode)) := by
  obtain ⟨hvertical, hhorizontal, hplane⟩ := h
  obtain rfl | rfl | rfl | rfl := two_cases mode
  · have htop := hvertical rfl
    simp only [intraPred, neighboursOf, if_pos htop]
    exact congrArg some (mkSamples_congr fun _ _ x hx => getD_map_range H hx)
  · have hleft := hhorizontal rfl
    simp only [intraPred, neighboursOf, if_pos hleft]
    exact congrArg some (mkSamples_congr fun y hy _ _ => getD_map_range V hy)
  · exact congrArg some (mkSamples_congr fun _ _ _ _ => dcValue_neighboursOf s H V P)
  · obtain ⟨htop, hleft⟩ := hplane rfl
    simp only [intraPred, neighboursOf, if_pos htop, if_pos hleft, if_pos (And.intro htop hleft)]
    exact congrArg some (planePred_eq H V P)

theorem intraPred_plane_of_no_corner {n : IntraNeighbours} (h : n.corner = none) : intraPred n 3 = none := by
  obtain ⟨top, left, corner⟩ := n
  obtain rfl : corner = none := h
  cases top <;> cases left <;> rfl

theorem intraPred_of_unavailable {mode : Two} (h : ¬s.modeAvailable mode) :
    intraPred (neighboursOf s H V P) mode = none := by
  obtain rfl | rfl | rfl | rfl := two_cases mode
  · have htop : ¬0 < mby s := fun htop => h ⟨fun _ => htop, nofun, nofun⟩
    simp only [intraPred, neighboursOf, if_neg htop]
    rfl
  · have hleft : ¬0 < mbx s := fun hleft => h ⟨nofun, fun _ => hleft, nofun⟩
    simp only [intraPred, neighboursOf, if_neg hleft]
    rfl
  · exact absurd ⟨nofun, nofun, nofun⟩ h
  · have hcorner : ¬(0 < mby s ∧ 0 < mbx s) := fun hcorner => h ⟨nofun, nofun, fun _ => hcorner⟩
    exact intraPred_plane_of_no_corner (if_neg hcorner)

theorem modeAvailable_of_intraPred {mode : Two} {p : Samples} (h : intraPred (neighboursOf s H V P) mode = some p) :
    s.modeAvailable mode ∧ p = mkSamples (s.predictionOf H V P mode) := by
  by_cases havail : s.modeAvailable mode
  · rw [intraPred_of_available havail] at h
    exact ⟨havail, (Option.some.inj h).symm⟩
  · rw [intraPred_of_unavailable havail] at h
    cases h

/-- A DC value of samples is a sample. -/
theorem dcOf_bounds {availH availV : Prop} [Decidable availH] [Decidable availV]
    (hH : availH → ∀ k < 16, 0 ≤ H k ∧ H k ≤ 255) (hV : availV → ∀ k < 16, 0 ≤ V k ∧ V k ≤ 255) :
    0 ≤ dcOf availH availV H V ∧ dcOf availH availV H V ≤ 255 := by
  have hsum : ∀ f : Nat → Int, (∀ k < 16, 0 ≤ f k ∧ f k ≤ 255) →
      0 ≤ ∑ k ∈ Finset.range 16, f k ∧ ∑ k ∈ Finset.range 16, f k ≤ 4080 := fun f hf =>
    ⟨Finset.sum_nonneg fun k hk => (hf k (Finset.mem_range.mp hk)).1,
      by simpa using Finset.sum_le_card_nsmul _ f 255 fun k hk => (hf k (Finset.mem_range.mp hk)).2⟩
  simp only [dcOf, shiftRight_five_eq_div, shiftRight_four_eq_div]
  split_ifs with hboth htop hleft
  · have := hsum H (hH hboth.1)
    have := hsum V (hV hboth.2)
    omega
  · have := hsum H (hH htop)
    omega
  · have := hsum V (hV hleft)
    omega
  · decide

/-- The prediction of samples is made of samples. -/
theorem predictionOf_bounds (h : s.intraIs H V P) {mode : Two} (havail : s.modeAvailable mode) {y x : Nat} (hy : y < 16)
    (hx : x < 16) : 0 ≤ s.predictionOf H V P mode y x ∧ s.predictionOf H V P mode y x ≤ 255 := by
  obtain ⟨hH, hV, -⟩ := h
  obtain ⟨hvertical, hhorizontal, -⟩ := havail
  obtain rfl | rfl | rfl | rfl := two_cases mode
  · exact sampleIs_bounds (hH (hvertical rfl) x hx)
  · exact sampleIs_bounds (hV (hhorizontal rfl) y hy)
  · exact dcOf_bounds (fun htop k hk => sampleIs_bounds (hH htop k hk)) fun hleft k hk => sampleIs_bounds (hV hleft k hk)
  · show 0 ≤ planeOfLines H V P y x ∧ planeOfLines H V P y x ≤ 255
    unfold planeOfLines
    omega

end

/-! `IPRED` (44_prediction.md R455). -/

section
variable {s : State} {n : IntraNeighbours} {mode : Two}

theorem exec_ipred_of_pred (hpicture : s.inPicture) (hn : intraNeighbours s = .ok n) {p : Samples}
    (hp : intraPred n mode = some p) : exec (.ipred mode) s = .next (complete (writePred s p)) := by
  simp only [exec, execIpred, checkPicture_of_inPicture hpicture, ok_bind, hn, hp, pure_eq_ok, runCommand_ok]

theorem exec_ipred_of_none (hpicture : s.inPicture) (hn : intraNeighbours s = .ok n) (hp : intraPred n mode = none) :
    exec (.ipred mode) s = .next (errorEnd s .invalidFieldValue s.bitpos.toNat) := by
  simp only [exec, execIpred, checkPicture_of_inPicture hpicture, ok_bind, hn, hp, raise_eq, runCommand_raise, here]

theorem exec_ipred_of_available {H V : Nat → Int} {P : Int} (hpicture : s.inPicture) (h : s.intraIs H V P)
    (havail : s.modeAvailable mode) :
    ∃ t, exec (.ipred mode) s = .next t ∧ predStored s t (s.predictionOf H V P mode) :=
  ⟨_, exec_ipred_of_pred hpicture (intraNeighbours_of_is h) (intraPred_of_available havail),
    predStored_writePred s fun _ hy _ hx => predictionOf_bounds h havail hy hx⟩

end

/-- Settles O53: every available neighbour is read before the mode is looked at. -/
theorem ipredFormsThePrediction : Obligations.IpredFormsThePrediction := by
  intro s mode hpicture
  refine ⟨fun H V P h => ⟨exec_ipred_of_available hpicture h, fun havail => ?outside⟩, fun hunwritten => ?faults⟩
  case outside => exact exec_ipred_of_none hpicture (intraNeighbours_of_is h) (intraPred_of_unavailable havail)
  case faults =>
    rw [exec, execIpred, checkPicture_of_inPicture hpicture, ok_bind, intraNeighbours_of_unwritten hunwritten, error_bind,
      runCommand_fault]

end Sys2Proof.Machine
end

section
/-! The selection of a mode (44_prediction.md R456): the choice that the fold over the modes keeps, its sum of absolute errors in
the rules' own terms, and `IPSEL`. -/

namespace Sys2Proof.Machine

/-! The choice. -/

/-- `best` is the choice among the modes `ms`: none is available, or it is the first one of least error. -/
def isChoice (n : IntraNeighbours) (source : Samples) (ms : List Two) (best : Option ModeChoice) : Prop :=
  match best with
  | none => ∀ m ∈ ms, intraPred n m = none
  | some b => b.mode ∈ ms ∧ intraPred n b.mode = some b.samples ∧ b.sae = saeOf source b.samples ∧
      ∀ m ∈ ms, ∀ p, intraPred n m = some p → b.sae ≤ saeOf source p ∧ (m < b.mode → b.sae < saeOf source p)

section
variable {n : IntraNeighbours} {source : Samples} {ms : List Two} {mode : Two} {b : ModeChoice}

/-- A mode of less error than every one before it is the choice. -/
theorem isChoice_concat_of_less {p : Samples} (hp : intraPred n mode = some p)
    (hless : ∀ m ∈ ms, ∀ p', intraPred n m = some p' → saeOf source p < saeOf source p') :
    isChoice n source (ms ++ [mode]) (some ⟨mode, saeOf source p, p⟩) := by
  refine ⟨List.mem_append_right ms (List.mem_singleton_self mode), hp, rfl, fun m hm p' hp' => ?_⟩
  obtain hm | hm := List.mem_append.mp hm
  · have hsae := hless m hm p' hp'
    exact ⟨hsae.le, fun _ => hsae⟩
  · obtain rfl := List.mem_singleton.mp hm
    obtain rfl := Option.some.inj (hp.symm.trans hp')
    exact ⟨le_rfl, fun hlt => absurd hlt (BitVec.lt_irrefl m)⟩

/-- A later mode of no less error leaves the choice as it is. -/
theorem isChoice_concat_of_not_less (h : isChoice n source ms (some b)) (hlt : ∀ m ∈ ms, m < mode)
    (hsae : ∀ p, intraPred n mode = some p → b.sae ≤ saeOf source p) : isChoice n source (ms ++ [mode]) (some b) := by
  obtain ⟨hmem, hpred, hbest, hleast⟩ := h
  refine ⟨List.mem_append_left _ hmem, hpred, hbest, fun m hm p hp => ?_⟩
  obtain hm | hm := List.mem_append.mp hm
  · exact hleast m hm p hp
  · obtain rfl := List.mem_singleton.mp hm
    exact ⟨hsae p hp, fun hlater => absurd hlater (BitVec.lt_asymm (hlt b.mode hmem))⟩

theorem betterChoice_of_unavailable (source : Samples) (best : Option ModeChoice) (hp : intraPred n mode = none) :
    betterChoice n source best mode = best := by
  simp only [betterChoice, hp]

theorem betterChoice_of_first (source : Samples) {p : Samples} (hp : intraPred n mode = some p) :
    betterChoice n source none mode = some ⟨mode, saeOf source p, p⟩ := by
  simp only [betterChoice, hp]

theorem betterChoice_of_later (source : Samples) (b : ModeChoice) {p : Samples} (hp : intraPred n mode = some p) :
    betterChoice n source (some b) mode
      = if saeOf source p < b.sae then some ⟨mode, saeOf source p, p⟩ else some b := by
  simp only [betterChoice, hp]

theorem isChoice_betterChoice {best : Option ModeChoice} (h : isChoice n source ms best) (hlt : ∀ m ∈ ms, m < mode) :
    isChoice n source (ms ++ [mode]) (betterChoice n source best mode) := by
  cases hp : intraPred n mode with
  | none =>
    rw [betterChoice_of_unavailable source best hp]
    cases best with
    | none => exact fun m hm => (List.mem_append.mp hm).elim (h m) fun hm => List.mem_singleton.mp hm ▸ hp
    | some b => exact isChoice_concat_of_not_less h hlt fun p hp' => nomatch hp.symm.trans hp'
  | some p =>
    cases best with
    | none =>
      rw [betterChoice_of_first source hp]
      exact isChoice_concat_of_less hp fun m hm p' hp' => nomatch (h m hm).symm.trans hp'
    | some b =>
      rw [betterChoice_of_later source b hp]
      split_ifs with hsae
      · obtain ⟨-, -, -, hleast⟩ := h
        exact isChoice_concat_of_less hp fun m hm p' hp' => hsae.trans_le (hleast m hm p' hp').1
      · refine isChoice_concat_of_not_less h hlt fun p' hp' => ?_
        obtain rfl := Option.some.inj (hp.symm.trans hp')
        exact not_lt.mp hsae

theorem isChoice_foldl (hms : ms.Pairwise (· < ·)) : isChoice n source ms (ms.foldl (betterChoice n source) none) := by
  induction ms using List.reverseRecOn with
  | nil => exact fun m hm => absurd hm List.not_mem_nil
  | append_singleton ms mode ih =>
    obtain ⟨hms, -, hlt⟩ := List.pairwise_append.mp hms
    rw [List.foldl_concat]
    exact isChoice_betterChoice (ih hms) fun m hm => hlt m hm mode (List.mem_singleton_self mode)

theorem isChoice_selectMode (n : IntraNeighbours) (source : Samples) :
    isChoice n source [0, 1, 2, 3] (selectMode n source) := isChoice_foldl (by decide)

theorem mem_modes (mode : Two) : mode ∈ ([0, 1, 2, 3] : List Two) := by
  simpa using two_cases mode

/-- A mode is always chosen, since mode 2 needs no neighbour (log 15). -/
theorem exists_selectMode (n : IntraNeighbours) (source : Samples) : ∃ best, selectMode n source = some best := by
  cases h : selectMode n source with
  | some best => exact ⟨best, rfl⟩
  | none =>
    have hnone := isChoice_selectMode n source
    rw [h] at hnone
    cases hnone 2 (mem_modes 2)

theorem intraPred_of_selectMode (h : selectMode n source = some b) : intraPred n b.mode = some b.samples := by
  have hbest := isChoice_selectMode n source
  rw [h] at hbest
  obtain ⟨-, hpred, -⟩ := hbest
  exact hpred

end

/-! The sum of absolute errors. -/

theorem sum_range_sixteen_rows (f : Nat → Nat → Int) (n : Nat) :
    ∑ k ∈ Finset.range (16 * n), f (k / 16) (k % 16) = ∑ y ∈ Finset.range n, ∑ x ∈ Finset.range 16, f y x := by
  induction n with
  | zero => rfl
  | succ n ih =>
    rw [Nat.mul_succ, Finset.sum_range_add, ih, Finset.sum_range_succ _ n, add_right_inj]
    refine Finset.sum_congr rfl fun x hx => ?_
    have hx := Finset.mem_range.mp hx
    congr 1 <;> omega

theorem saeOf_mkSamples (S f : Nat → Nat → Int) :
    saeOf (mkSamples S) (mkSamples f) = ∑ y ∈ Finset.range 16, ∑ x ∈ Finset.range 16, |S y x - f y x| := by
  rw [saeOf, mkSamples, mkSamples, List.zipWith_map, List.zipWith_self, sum_map_range]
  exact sum_range_sixteen_rows (fun y x => |S y x - f y x|) 16

section
variable {s : State} {S : Nat → Nat → Int} {H V : Nat → Int} {P : Int}

theorem errorOf_bounds (h : s.intraIs H V P) (hS : ∀ y < 16, ∀ x < 16, 0 ≤ S y x ∧ S y x ≤ 255) {mode : Two}
    (havail : s.modeAvailable mode) : 0 ≤ s.errorOf S H V P mode ∧ s.errorOf S H V P mode ≤ 65280 := by
  have hterm : ∀ y < 16, ∀ x < 16, |S y x - s.predictionOf H V P mode y x| ≤ 255 := fun y hy x hx => by
    have hsource := hS y hy x hx
    have hpred := predictionOf_bounds h havail hy hx
    exact abs_le.mpr ⟨by omega, by omega⟩
  have hrow : ∀ y < 16, ∑ x ∈ Finset.range 16, |S y x - s.predictionOf H V P mode y x| ≤ 4080 := fun y hy => by
    simpa using Finset.sum_le_card_nsmul (Finset.range 16) _ 255 fun x hx => hterm y hy x (Finset.mem_range.mp hx)
  unfold State.errorOf
  refine ⟨Finset.sum_nonneg fun y _ => Finset.sum_nonneg fun x _ => abs_nonneg _, ?_⟩
  simpa using Finset.sum_le_card_nsmul (Finset.range 16) _ 4080 fun y hy => hrow y (Finset.mem_range.mp hy)

/-- The choice in the rules' own terms. -/
theorem least_of_selectMode {b : ModeChoice} (h : selectMode (neighboursOf s H V P) (mkSamples S) = some b) :
    s.modeAvailable b.mode ∧ b.samples = mkSamples (s.predictionOf H V P b.mode) ∧ b.sae = s.errorOf S H V P b.mode ∧
      ∀ m, s.modeAvailable m → s.errorOf S H V P b.mode ≤ s.errorOf S H V P m ∧
        (m.toNat < b.mode.toNat → s.errorOf S H V P b.mode < s.errorOf S H V P m) := by
  have hbest := isChoice_selectMode (neighboursOf s H V P) (mkSamples S)
  rw [h] at hbest
  obtain ⟨-, hpred, hsae, hleast⟩ := hbest
  obtain ⟨havail, hsamples⟩ := modeAvailable_of_intraPred hpred
  have herror : b.sae = s.errorOf S H V P b.mode := by rw [hsae, hsamples, saeOf_mkSamples, State.errorOf]
  refine ⟨havail, hsamples, herror, fun m hm => ?_⟩
  have hless := hleast m (mem_modes m) _ (intraPred_of_available hm)
  rwa [herror, saeOf_mkSamples, ← State.errorOf] at hless

end

/-! `IPSEL` (44_prediction.md R456). -/

/-- The state that `IPSEL` leaves. -/
def selected (s : State) (best : ModeChoice) : State :=
  complete { (writePred s best.samples) with res := best.mode.setWidth 32, sae := BitVec.ofInt 17 best.sae }

section
variable {s : State} {n : IntraNeighbours} {source : Samples} {best : ModeChoice}

theorem exec_ipsel_of_choice (hpicture : s.inPicture) (hn : intraNeighbours s = .ok n)
    (hsource : readSamples s.src = .ok source) (hbest : selectMode n source = some best) :
    exec .ipsel s = .next (selected s best) := by
  simp only [exec, execIpsel, checkPicture_of_inPicture hpicture, ok_bind, hn, hsource, hbest, pure_eq_ok, runCommand_ok,
    selected]

/-- An `IPSEL` that completes has made a choice. -/
theorem choice_of_ipsel_done {t : State} (h : exec .ipsel s = .next t) (hdone : t.done = true) :
    ∃ n source best, s.inPicture ∧ intraNeighbours s = .ok n ∧ selectMode n source = some best ∧ t = selected s best := by
  rw [exec, execIpsel, runCommand_eq_next] at h
  obtain ⟨u, hu, rfl⟩ | ⟨e, info, -, rfl⟩ := h
  · simp only [bind_eq_ok] at hu
    obtain ⟨_, hpicture, n, hn, source, -, hbest⟩ := hu
    obtain ⟨best, hselect⟩ := exists_selectMode n source
    rw [hselect] at hbest
    obtain rfl := Except.ok.inj hbest
    exact ⟨n, source, best, inPicture_iff.mpr (checkPicture_eq_ok.mp hpicture), hn, hselect, rfl⟩
  · cases hdone

@[simp] theorem selected_params (s : State) (best : ModeChoice) : (selected s best).params = s.params := by
  simp only [selected, complete_params, writePred_params]

@[simp] theorem selected_picdim (s : State) (best : ModeChoice) : (selected s best).picdim = s.picdim := by
  simp only [selected, complete_picdim, writePred_picdim]

@[simp] theorem selected_mbpos (s : State) (best : ModeChoice) : (selected s best).mbpos = s.mbpos := by
  simp only [selected, complete_mbpos, writePred_mbpos]

@[simp] theorem selected_recFrame (s : State) (best : ModeChoice) : (selected s best).recFrame = s.recFrame := by
  simp only [selected, complete_recFrame, writePred_recFrame]

@[simp] theorem selected_pred (s : State) (best : ModeChoice) : (selected s best).pred = (writePred s best.samples).pred := by
  simp only [selected, complete_pred]

theorem predStored_selected {f : Nat → Nat → Int} (hsamples : best.samples = mkSamples f)
    (h : ∀ y < 16, ∀ x < 16, 0 ≤ f y x ∧ f y x ≤ 255) :
    predStored { s with res := (selected s best).res, sae := (selected s best).sae } (selected s best) f := by
  have hstate : selected s best
      = complete (writePred { s with res := best.mode.setWidth 32, sae := BitVec.ofInt 17 best.sae } (mkSamples f)) := by
    rw [selected, hsamples, writePred, writePred]
  rw [hstate]
  exact predStored_writePred _ h

theorem exec_ipsel_of_unwritten (hpicture : s.inPicture) (h : s.intraUnwritten ∨ ∃ k < 256, cellRead s.src k = none) :
    exec .ipsel s = .fault .undefinedRead := by
  rw [exec, execIpsel, checkPicture_of_inPicture hpicture, ok_bind]
  obtain hneighbour | hsource := h
  · rw [intraNeighbours_of_unwritten hneighbour, error_bind, runCommand_fault]
  · rw [bind_eq_error_of_stopsOnlyWith (stopsOnlyWith_intraNeighbours s), runCommand_fault]
    intro _ _
    rw [readSamples_of_unwritten hsource, error_bind]

end

/-- Settles O54: the fold over the modes in their order keeps the first one of least error. -/
theorem ipselChoosesTheLeastError : Obligations.IpselChoosesTheLeastError := by
  intro s hpicture
  refine ⟨fun H V P S h hS => ?chooses, exec_ipsel_of_unwritten hpicture⟩
  obtain ⟨best, hbest⟩ := exists_selectMode (neighboursOf s H V P) (mkSamples S)
  obtain ⟨havail, hsamples, hsae, hleast⟩ := least_of_selectMode hbest
  have hbounds := errorOf_bounds h (fun y hy x hx => sampleIs_bounds (hS y hy x hx)) havail
  refine ⟨_, best.mode, exec_ipsel_of_choice hpicture (intraNeighbours_of_is h) (readSamples_of_is hS) hbest, havail,
    fun m hm => (hleast m hm).1, fun m hlt hm => (hleast m hm).2 hlt, ?res, ?sae,
    predStored_selected hsamples fun _ hy _ hx => predictionOf_bounds h havail hy hx⟩
  case res =>
    show (best.mode.setWidth 32).toNat = best.mode.toNat
    exact BitVec.toNat_setWidth_of_le (by decide)
  case sae =>
    show ((BitVec.ofInt 17 best.sae).toNat : Int) = _
    rw [hsae, BitVec.toNat_ofInt]
    omega

end Sys2Proof.Machine
end

section
/-! The properties that the prediction rules imply (44_prediction.md R470). -/

namespace Sys2Proof.Machine

/-! What a command leaves of the state that the next one looks at. -/

section
variable {s t : State}

theorem inPicture_congr (hparams : t.params = s.params) (hpicdim : t.picdim = s.picdim) (hmbpos : t.mbpos = s.mbpos) :
    t.inPicture ↔ s.inPicture := by
  simp only [State.inPicture, wmbs, hmbs, mbx, mby, hparams, hpicdim, hmbpos]

theorem recKey_congr (hmbpos : t.mbpos = s.mbpos) (y x : Nat) : recKey t y x = recKey s y x := by
  simp only [recKey, mbx, mby, hmbpos]

theorem intraNeighbours_congr (hmbpos : t.mbpos = s.mbpos) (hrec : t.recFrame = s.recFrame) :
    intraNeighbours t = intraNeighbours s := by
  unfold intraNeighbours originX originY mbx mby
  rw [hmbpos, hrec]

end


/-! The four properties. -/

section
variable {s : State}

/-- In the corner macroblock no neighbour is inside the picture, and none is read. -/
theorem intraIs_of_corner (hx : mbx s = 0) (hy : mby s = 0) (H V : Nat → Int) (P : Int) : s.intraIs H V P :=
  ⟨fun h => by omega, fun h => by omega, fun h => by omega⟩

theorem ipred_dc_in_corner (hpicture : s.inPicture) (hx : mbx s = 0) (hy : mby s = 0) :
    ∃ t, exec (.ipred 2) s = .next t ∧ predStored s t (fun _ _ => 128) := by
  have hdc : s.predictionOf 0 0 0 2 = fun _ _ => 128 := by
    funext y x
    show dcOf (0 < mby s) (0 < mbx s) 0 0 = 128
    simp only [dcOf, hx, hy, lt_irrefl, and_self, if_false]
  have h := exec_ipred_of_available (mode := 2) hpicture (intraIs_of_corner hx hy 0 0 0) ⟨nofun, nofun, nofun⟩
  rwa [hdc] at h

/-- `IPSEL` changes nothing that `IPRED` reads, and `IPRED` writes the samples that are there. -/
theorem ipred_after_ipsel {t : State} (h : exec .ipsel s = .next t) (hdone : t.done = true) :
    ∃ (mode : Two) (u : State), t.res = mode.setWidth 32 ∧ exec (.ipred mode) t = .next u ∧ u.done = true ∧
      ∀ k, cellRead u.pred k = cellRead t.pred k := by
  obtain ⟨n, source, best, hpicture, hn, hbest, rfl⟩ := choice_of_ipsel_done h hdone
  have hpicture' : (selected s best).inPicture :=
    (inPicture_congr (selected_params s best) (selected_picdim s best) (selected_mbpos s best)).mpr hpicture
  have hn' : intraNeighbours (selected s best) = .ok n :=
    (intraNeighbours_congr (selected_mbpos s best) (selected_recFrame s best)).trans hn
  refine ⟨best.mode, _, rfl, exec_ipred_of_pred hpicture' hn' (intraPred_of_selectMode hbest), complete_done _,
    fun k => ?_⟩
  rw [complete_pred, cellRead_writePred, selected_pred, cellRead_writePred]
  split_ifs <;> rfl

/-- The residual and the prediction add up to the source, which no clip changes. -/
theorem recon_after_rsub {bx byy : Two} {A P : Matrix4} (slot : Slot) (hpicture : s.inPicture)
    (hA : ∀ r c, blockSampleIs s.src bx byy r c (A r c)) (hP : ∀ r c, blockSampleIs s.pred bx byy r c (P r c)) :
    ∃ t u, exec (.rsub slot bx byy) s = .next t ∧ exec (.recon slot bx byy) t = .next u ∧
      ∀ r c : Fin 4, sampleIs u.recFrame (recKey s (4 * byy.toNat + r.val) (4 * bx.toNat + c.val)) (A r c) := by
  obtain ⟨hslot, -, -, -, hframe⟩ := slotStored_of_rsub hA hP slot
  have hexec := exec_rsub_of_is (slot := slot) hA hP
  generalize complete (writeSlot s slot (blockOf (A - P))) = t at hslot hframe hexec
  obtain ⟨hparams, hpicdim, hmbpos, hpred⟩ :
      t.params = s.params ∧ t.picdim = s.picdim ∧ t.mbpos = s.mbpos ∧ t.pred = s.pred := by
    rw [← hframe]
    exact ⟨rfl, rfl, rfl, rfl⟩
  have hpicture' := (inPicture_congr hparams hpicdim hmbpos).mpr hpicture
  refine ⟨t, _, hexec, exec_recon_of_is hpicture' (hpred ▸ hP) hslot, fun r c => ?_⟩
  have hsample := sampleIs_reconstructed t bx byy P (A - P) r c
  have hbounds := sampleIs_bounds (hA r c)
  have hvalue : max 0 (min 255 (P r c + (A - P) r c)) = A r c := by
    rw [Matrix.sub_apply]
    omega
  rwa [hvalue, recKey_congr hmbpos] at hsample

theorem vectorOf_left_only (v : MotionVector) : vectorOf (some v) none none = v := by
  simp only [vectorOf, middleOf, Option.some_or, Option.getD_some, Option.getD_none, min_self, max_self]

theorem mvpred_in_top_row {c : MvCell} (hpicture : s.inPicture) (hy : mby s = 0) (hx : 0 < mbx s)
    (hc : cellRead s.mvg (mvKey (mbx s - 1) 0) = some c) (hvalid : c.valid = true) :
    ∃ t, exec .mvpred s = .next t ∧ t.res = c.mvy ++ c.mvx ∧ t.done = true := by
  have hexec := exec_mvpred_of_is (a := some (c.mvx.toInt, c.mvy.toInt)) (b := none) (c := none) hpicture
    ⟨fun _ => ⟨c, hy ▸ hc, hvalid, rfl⟩, fun h => absurd hx h⟩ ⟨fun h => by omega, fun _ => rfl⟩
    ⟨fun h => by omega, fun _ => rfl⟩
  refine ⟨_, hexec, ?_, complete_done _⟩
  rw [complete_res, vectorOf_left_only, packMv_eq_append, BitVec.ofInt_toInt, BitVec.ofInt_toInt]

end

/-- Settles O60: the four properties, each from the commands' own statements. -/
theorem predictionProperties : Obligations.PredictionProperties :=
  ⟨fun _ => ipred_dc_in_corner, fun _ _ => ipred_after_ipsel, fun _ slot _ _ _ _ => recon_after_rsub slot,
    fun _ _ => mvpred_in_top_row⟩

end Sys2Proof.Machine
end

section
/-! The control commands (45_control.md R510 .. R516): the registers they write, the valid bits they clear, the QP they
derive and the elements they move. -/

namespace Sys2Proof.Machine

/-! Completion. -/

/-- Completion changes no register but `STATUS` (10_state.md R55). -/
theorem readReg_complete (s : State) {n : Nat} (h : n ≠ 2) : readReg (complete s) n = readReg s n := by
  unfold readReg
  split
  case h_3 => exact absurd rfl h
  all_goals rfl

/-- Settles O23: the grids are left as a soft reset leaves them. -/
theorem nopAndGridclrComplete : Obligations.NopAndGridclrComplete := by
  intro s
  exact ⟨rfl, _, rfl, fun _ _ => not_valid_softReset_ncg (s := s), fun _ _ => not_valid_softReset_mvg (s := s),
    complete_busy _, complete_done _, rfl⟩

/-! Register writes (45_control.md R511, R512). -/

section
variable {s : State} {rsel : BitVec 6}

theorem legal_of_writable (h6 : 6 ≤ rsel.toNat) (h14 : rsel.toNat ≤ 14) : legal (regWritable rsel) s = .ok () := by
  rw [regWritable, decide_eq_true h6, decide_eq_true h14, Bool.and_self, legal_true]

theorem legal_of_not_writable (h : ¬(6 ≤ rsel.toNat ∧ rsel.toNat ≤ 14)) :
    legal (regWritable rsel) s = .error (.raise .illegalCommand s.bitpos.toNat) := by
  rw [regWritable, ← Bool.decide_and, decide_eq_false h, legal_false, here]

end

theorem setrhValue_eq_append (imm : BitVec 16) (old : Word) : setrhValue imm old = imm ++ old.extractLsb' 0 16 := by
  apply BitVec.eq_of_toNat_eq
  rw [setrhValue, toNat_append_eq_mul_add, BitVec.extractLsb'_toNat, BitVec.toNat_ofNat, Nat.shiftRight_zero]
  omega

/-- What a command leaves that writes a writable register and completes. -/
theorem registerStored_complete_writeReg (s : State) {n : Nat} (v : Word) (h6 : 6 ≤ n) (h14 : n ≤ 14) :
    registerStored s (complete (writeReg s n v)) n v := by
  refine ⟨?register, fun j hj h2 => ?others, ?frame⟩
  case register => rw [readReg_complete _ (by omega), readReg_writeReg_self s v h6 h14]
  case others => rw [readReg_complete _ h2, readReg_writeReg_of_ne s v hj]
  case frame => exact congrArg (fun t : State => { t with busy := s.busy, done := s.done }) (writeReg_frame s n v)

/-- Settles O24: past the check of `rsel` both commands are one write to a register. -/
theorem setrAndSetrhWriteOneRegister : Obligations.SetrAndSetrhWriteOneRegister := by
  intro s rsel imm
  refine ⟨fun h6 h14 => ?writable, fun h => ?illegal⟩
  case writable =>
    have hstored (v : Word) := registerStored_complete_writeReg s v h6 h14
    refine ⟨⟨_, ?setr, hstored _, complete_busy _, complete_done _⟩,
      ⟨_, ?setrh, hstored _, complete_busy _, complete_done _⟩⟩
    case setr => rw [exec, execSetr, legal_of_writable h6 h14, ok_bind, pure_eq_ok, runCommand_ok, setrValue]
    case setrh =>
      rw [exec, execSetrh, legal_of_writable h6 h14, ok_bind, pure_eq_ok, runCommand_ok, setrhValue_eq_append]
  case illegal =>
    rw [exec, execSetr, exec, execSetrh, legal_of_not_writable h, error_bind, error_bind, runCommand_raise]
    exact ⟨rfl, rfl⟩

/-! `QPDELTA` (45_control.md R514). -/

theorem qpFromDelta_bounds (q : Nat) (delta : Int) : 0 ≤ qpFromDelta q delta ∧ qpFromDelta q delta < 52 := by
  unfold qpFromDelta
  omega

theorem dvd_qpFromDelta_sub (q : Nat) (delta : Int) : (52 : Int) ∣ qpFromDelta q delta - ((q : Int) + delta) := by
  unfold qpFromDelta
  omega

/-- The six bits of `QP` hold the derived value. -/
theorem toNat_ofInt_qpFromDelta (q : Nat) (delta : Int) :
    ((BitVec.ofInt 6 (qpFromDelta q delta)).toNat : Int) = qpFromDelta q delta := by
  have hbounds := qpFromDelta_bounds q delta
  rw [BitVec.toNat_ofInt]
  omega

theorem exec_qpdelta_of_le {s : State} (h : s.sliceqp.toNat ≤ 51) :
    exec .qpdelta s
      = .next (complete { s with qp := BitVec.ofInt 6 (qpFromDelta s.sliceqp.toNat s.opr.toInt) }) := by
  rw [exec, execQpdelta, decide_eq_true h, require_true, ok_bind, pure_eq_ok, runCommand_ok]

/-- Settles O25: the floor modulus is congruent to its argument and lies in 0 .. 51. -/
theorem qpdeltaWrapsModulo52 : Obligations.QpdeltaWrapsModulo52 := by
  intro s
  have hvalue := toNat_ofInt_qpFromDelta s.sliceqp.toNat s.opr.toInt
  refine ⟨fun hle => ⟨_, exec_qpdelta_of_le hle, ?range, ?congruent, complete_busy _, complete_done _, rfl⟩,
    fun hlt => ?invalid⟩
  case range =>
    have hbounds := qpFromDelta_bounds s.sliceqp.toNat s.opr.toInt
    simp only [complete_qp]
    omega
  case congruent =>
    rw [complete_qp, hvalue]
    exact dvd_qpFromDelta_sub _ _
  case invalid =>
    rw [exec, execQpdelta, decide_eq_false (by omega), require_false, error_bind, runCommand_raise, here]

/-! Elements (45_control.md R515, R516). -/

section
variable {s : State} {src : Slot} {sr sc : Two}

theorem exec_emov_of_read {v : Word} (d : Slot) (dr dc : Two)
    (h : cellRead s.cb (cbKey src (4 * sr.toNat + sc.toNat)) = some v) :
    exec (.emov d src dr dc sr sc) s
      = .next (complete { s with cb := cellWrite (cbKey d (4 * dr.toNat + dc.toNat)) v s.cb }) := by
  rw [exec, execEmov, h, written_some, ok_bind, pure_eq_ok, runCommand_ok]

theorem exec_emov_of_unwritten (d : Slot) (dr dc : Two)
    (h : cellRead s.cb (cbKey src (4 * sr.toNat + sc.toNat)) = none) :
    exec (.emov d src dr dc sr sc) s = .fault .undefinedRead := by
  rw [exec, execEmov, h, written_none, error_bind, runCommand_fault]

end

theorem slotStored_writeSlot_zero (s : State) (d : Slot) :
    slotStored s (complete (writeSlot s d (blockOf 0))) d 0 := by
  have hfits : ∀ r c, fitsSlot ((0 : Matrix4) r c) := fun _ _ => show fitsSlot 0 from ⟨by decide, by decide⟩
  have hstored := slotStored_writeSlot s d (forall_mem_blockOf.mpr hfits)
  rwa [matrixView_blockOf] at hstored

/-- Settles O26: `EMOV` writes one cell, and `ZERO` the block of the zero matrix. -/
theorem emovAndZeroWriteTheirElements : Obligations.EmovAndZeroWriteTheirElements := by
  intro s d src dr dc sr sc
  have hkey (slot : Slot) (r c : Two) : 16 * slot.toNat + 4 * r.toNat + c.toNat = cbKey slot (4 * r.toNat + c.toNat) :=
    Nat.add_assoc _ _ _
  rw [hkey, hkey]
  refine ⟨fun v hv => ⟨_, exec_emov_of_read d dr dc hv, ?copied, fun k hk => ?others, complete_busy _,
    complete_done _, rfl⟩, exec_emov_of_unwritten d dr dc, _, rfl, slotStored_writeSlot_zero s d⟩
  case copied => rw [complete_cb, cellRead_cellWrite_self]
  case others => rw [complete_cb, cellRead_cellWrite_of_ne hk.symm]

end Sys2Proof.Machine
end

section
/-! The two ends of a command (60_exceptions.md R566): it completes, or changes nothing but the error registers and
flags. -/

namespace Sys2Proof.Machine

section
variable (s : State) (n : Nat) (v : Word)

@[simp] theorem writeReg_errcmd : (writeReg s n v).errcmd = s.errcmd := by unfold writeReg; split <;> rfl
@[simp] theorem writeReg_errpos : (writeReg s n v).errpos = s.errpos := by unfold writeReg; split <;> rfl

end

/-- A command that completes keeps `ERRCMD` and `ERRPOS`. -/
theorem completes_errorRegisters {s u : State} {i : Instr} (hu : Completes s i u) :
    u.errcmd = s.errcmd ∧ u.errpos = s.errpos := by
  cases hu <;> simp

/-- No arm of `exec` refuses its command. -/
theorem exec_ne_refused (i : Instr) (s : State) (r : Refusal) : exec i s ≠ .refused r := by
  obtain ⟨c, hexec, -⟩ := exec_eq_runCommand i s
  rw [hexec]
  exact runCommand_ne_refused s c r

/-- Settles O13: a result of a command keeps the error registers, and the other end is the error end. -/
theorem everyCommandCompletesOrEndsInError : Obligations.EveryCommandCompletesOrEndsInError := by
  refine fun i s => ⟨fun t h => ?_, exec_ne_refused i s⟩
  obtain ⟨u, hu, rfl⟩ | ⟨e, info, he, rfl⟩ := exec_eq_next h
  · obtain ⟨herr, hcode⟩ := completes_error hu
    obtain ⟨hcmd, hpos⟩ := completes_errorRegisters hu
    exact .inl ⟨complete_busy u, complete_done u, herr, hcode, hcmd, hpos⟩
  · exact .inr ⟨e, BitVec.ofNat 32 info, he, rfl⟩

end Sys2Proof.Machine
end

section
/-! Which commands raise which error (60_exceptions.md R560 .. R570): the errors that the parts of a command can raise,
as rules for `raisesOnly`, said once for each shared operation. A read of storage raises nothing: it can only fault
(R574). -/

namespace Sys2Proof.Machine

/-- The error `e` is one that the rules let the command `i` raise (60_exceptions.md R561 .. R569). -/
def mayRaise (i : Instr) : ErrCode → Prop
  | .none => False
  | .bitstreamExhausted => i.mayExhaust = true
  | .malformedVlcCode => i.mayMalform = true
  | .unsupportedFeature => False
  | .invalidFieldValue => i.mayInvalidate = true
  | .contextNotWritten => i.readsContext = true
  | .arithOverflow => i.mayOverflow = true
  | .illegalCommand => i.wellFormed = false

section
variable {α β : Type} {i : Instr}

/-- Every error that the computation raises is one that the command `i` may raise. -/
def raisesOnly (i : Instr) (c : Cmd α) : Prop := ∀ e info, c = .error (.raise e info) → mayRaise i e

theorem raisesOnly_pure (a : α) : raisesOnly i (pure a : Cmd α) := nofun

theorem raisesOnly_raise {e : ErrCode} {info : Nat} (h : mayRaise i e) : raisesOnly i (raise e info : Cmd α) := by
  rintro _ _ ⟨⟩
  exact h

theorem raisesOnly_raiseValue {info : Nat} (h : i.mayInvalidate = true) :
    raisesOnly i (raise .invalidFieldValue info : Cmd α) :=
  raisesOnly_raise h

theorem raisesOnly_bind {c : Cmd α} {f : α → Cmd β} (hc : raisesOnly i c) (hf : ∀ a, raisesOnly i (f a)) :
    raisesOnly i (c >>= f) := by
  intro e info h
  obtain h | ⟨a, -, h⟩ := bind_eq_error.mp h
  · exact hc e info h
  · exact hf a e info h

theorem raisesOnly_ite {p : Prop} [Decidable p] {c d : Cmd α} (hc : raisesOnly i c) (hd : raisesOnly i d) :
    raisesOnly i (if p then c else d) := by
  split_ifs
  · exact hc
  · exact hd

/-! Checks. -/

theorem raisesOnly_require {ok : Bool} {e : ErrCode} {info : Nat} (h : ok = false → mayRaise i e) :
    raisesOnly i (require ok e info) := by
  intro e' info' hx
  obtain ⟨hok, hstop⟩ := require_eq_error.mp hx
  cases hstop
  exact h hok

theorem raisesOnly_requireValue {ok : Bool} {info : Nat} (h : i.mayInvalidate = true) :
    raisesOnly i (require ok .invalidFieldValue info) :=
  raisesOnly_require fun _ => h

theorem raisesOnly_legal {ok : Bool} (h : ok = false → i.wellFormed = false) (s : State) :
    raisesOnly i (legal ok s) :=
  raisesOnly_require h

theorem raisesOnly_checkQp (h : i.mayInvalidate = true) (s : State) : raisesOnly i (checkQp s) :=
  raisesOnly_requireValue h

theorem raisesOnly_checkPicture (h : i.mayInvalidate = true) (s : State) : raisesOnly i (checkPicture s) :=
  raisesOnly_bind (raisesOnly_requireValue h) fun _ => raisesOnly_requireValue h

theorem raisesOnly_needBits (h : i.mayExhaust = true) (s : State) (start pos n : Nat) :
    raisesOnly i (needBits s start pos n) :=
  raisesOnly_require fun _ => h

/-! Reads of storage. -/

theorem raisesOnly_written (o : Option α) : raisesOnly i (written o) := by
  intro e info h
  cases (written_eq_error.mp h).2

theorem raisesOnly_readEach {f : β → Cmd α} (hf : ∀ b, raisesOnly i (f b)) (l : List β) :
    raisesOnly i (readEach f l) := by
  intro e info h
  obtain ⟨b, -, hb⟩ := readEach_eq_error h
  exact hf b e info hb

theorem raisesOnly_readElems (s : State) (slot : Slot) (ks : List Nat) :
    raisesOnly i (readEach (readElem s slot) ks) :=
  raisesOnly_readEach (fun _ => raisesOnly_bind (raisesOnly_written _) fun _ => raisesOnly_pure _) ks

theorem raisesOnly_readSlot (s : State) (slot : Slot) : raisesOnly i (readSlot s slot) := raisesOnly_readElems s slot _

theorem raisesOnly_readSample (m : Cells Byte) (key : Nat) : raisesOnly i (readSample m key) :=
  raisesOnly_bind (raisesOnly_written _) fun _ => raisesOnly_pure _

/-- A list of samples, wherever each of them is kept. -/
theorem raisesOnly_readSampleList (m : Cells Byte) (key : β → Nat) (l : List β) :
    raisesOnly i (readEach (fun b => readSample m (key b)) l) :=
  raisesOnly_readEach (fun b => raisesOnly_readSample m (key b)) l

theorem raisesOnly_readIf {c : Cmd α} (avail : Bool) (hc : raisesOnly i c) : raisesOnly i (readIf avail c) :=
  raisesOnly_ite (raisesOnly_bind hc fun _ => raisesOnly_pure _) (raisesOnly_pure _)

theorem raisesOnly_intraNeighbours (s : State) : raisesOnly i (intraNeighbours s) :=
  raisesOnly_bind (raisesOnly_readIf _ (raisesOnly_readSampleList _ _ _)) fun _ =>
    raisesOnly_bind (raisesOnly_readIf _ (raisesOnly_readSampleList _ _ _)) fun _ =>
      raisesOnly_bind (raisesOnly_readIf _ (raisesOnly_readSample _ _)) fun _ => raisesOnly_pure _

/-! The grids: a read of a cell raises `ContextNotWritten` alone (60_exceptions.md R565). -/

theorem raisesOnly_readNc (h : i.readsContext = true) (s : State) (p : Plane) (gx gy : Nat) :
    raisesOnly i (readNc s p gx gy) := by
  unfold readNc
  split
  · exact raisesOnly_ite (raisesOnly_pure _) (raisesOnly_raise h)
  · exact raisesOnly_raise h

theorem raisesOnly_readNeighbour (h : i.readsContext = true) (s : State) (p : Plane) (edge gx gy : Nat) :
    raisesOnly i (readNeighbour s p edge gx gy) :=
  raisesOnly_ite (raisesOnly_pure _) (raisesOnly_bind (raisesOnly_readNc h s p gx gy) fun _ => raisesOnly_pure _)

theorem raisesOnly_gridNc (h : i.readsContext = true) (s : State) (p : Plane) (bx byy : Nat) :
    raisesOnly i (gridNc s p bx byy) :=
  raisesOnly_bind (raisesOnly_readNeighbour h s p _ _ _) fun _ =>
    raisesOnly_bind (raisesOnly_readNeighbour h s p _ _ _) fun _ => raisesOnly_pure _

/-- nC comes from the grid only where a plane is named without `ncsel` (42_cavlc.md R284). -/
theorem raisesOnly_ncFor {plane : Option Plane} {ncsel : Bool}
    (h : (plane.isSome && !ncsel) = true → i.readsContext = true) (s : State) (bx byy : Two) :
    raisesOnly i (ncFor s plane ncsel bx byy) := by
  cases plane with
  | none => exact raisesOnly_pure _
  | some p =>
    cases ncsel with
    | true => exact raisesOnly_pure _
    | false => exact raisesOnly_bind (raisesOnly_gridNc (h rfl) s p _ _) fun _ => raisesOnly_pure _

theorem raisesOnly_cavlcContext {mnc : Mnc} {plane : Option Plane} {ncsel wb : Bool} {bx byy : Two}
    (hfields : cavlcFieldsOk mnc plane ncsel bx byy wb = false → i.wellFormed = false)
    (hvalue : i.mayInvalidate = true) (hcontext : (plane.isSome && !ncsel) = true → i.readsContext = true) (s : State) :
    raisesOnly i (cavlcContext mnc plane ncsel bx byy wb s) := by
  rw [cavlcContext_eq]
  exact raisesOnly_bind (raisesOnly_legal hfields s) fun _ =>
    raisesOnly_bind (raisesOnly_ite (raisesOnly_checkPicture hvalue s) (raisesOnly_pure _)) fun _ =>
      raisesOnly_ncFor hcontext s bx byy

theorem raisesOnly_readMv (h : i.readsContext = true) (s : State) (mx my : Nat) : raisesOnly i (readMv s mx my) := by
  unfold readMv
  split
  · exact raisesOnly_ite (raisesOnly_pure _) (raisesOnly_raise h)
  · exact raisesOnly_raise h

theorem raisesOnly_predictMv (h : i.readsContext = true) (s : State) : raisesOnly i (predictMv s) := by
  have hneighbour (avail : Bool) (mx my : Nat) : raisesOnly i (mvNeighbour s avail mx my) :=
    raisesOnly_readIf avail (raisesOnly_readMv h s mx my)
  exact raisesOnly_bind (hneighbour _ _ _) fun _ => raisesOnly_bind (hneighbour _ _ _) fun _ =>
    raisesOnly_bind (hneighbour _ _ _) fun _ => raisesOnly_pure _

/-! Writes: a bit string that does not fit the buffer, a block that does not fit its slot. -/

theorem raisesOnly_writeBits (h : i.mayExhaust = true) (s : State) (code : List Bool) :
    raisesOnly i (writeBits s code) :=
  raisesOnly_bind (raisesOnly_require fun _ => h) fun _ => raisesOnly_pure _

theorem raisesOnly_storeBlock (h : i.mayOverflow = true) (s : State) (slot : Slot) (b : Block) :
    raisesOnly i (storeBlock s slot b) :=
  raisesOnly_bind (raisesOnly_require fun _ => h) fun _ => raisesOnly_pure _

/-! The readers of the stream: the end of the stream is `BitstreamExhausted`, and a codeword of no table
`MalformedVlcCode` (60_exceptions.md R561, R562). -/

theorem raisesOnly_streamBits (s : State) (pos n : Nat) : raisesOnly i (streamBits s pos n) :=
  raisesOnly_bind (raisesOnly_readEach (fun _ => raisesOnly_written _) _) fun _ => raisesOnly_pure _

theorem raisesOnly_peekField (hend : i.mayExhaust = true) (s : State) (n : Nat) : raisesOnly i (peekField s n) :=
  raisesOnly_bind (raisesOnly_needBits hend s _ _ n) fun _ => raisesOnly_streamBits s _ n

section
variable (hend : i.mayExhaust = true) (hcode : i.mayMalform = true) (s : State)
include hend hcode

theorem raisesOnly_countZeros (start room pos zeros : Nat) : raisesOnly i (countZeros s start room pos zeros) := by
  induction room generalizing pos zeros with
  | zero => exact raisesOnly_raise hcode
  | succ room ih =>
    exact raisesOnly_bind (raisesOnly_needBits hend s start pos 1) fun _ => raisesOnly_bind (raisesOnly_written _)
      fun _ => raisesOnly_ite (raisesOnly_pure _) (ih (pos + 1) (zeros + 1))

theorem raisesOnly_readUe (start : Nat) : raisesOnly i (readUe s start) :=
  raisesOnly_bind (raisesOnly_countZeros hend hcode s start 32 start 0) fun r =>
    raisesOnly_bind (raisesOnly_needBits hend s start r.2 r.1) fun _ =>
      raisesOnly_bind (raisesOnly_streamBits s r.2 r.1) fun _ => raisesOnly_pure _

theorem raisesOnly_vlcScan (t : List (VlcEntry α)) (start room len code : Nat) :
    raisesOnly i (vlcScan s t start room len code) := by
  induction room generalizing len code with
  | zero => exact raisesOnly_raise hcode
  | succ room ih =>
    refine raisesOnly_bind (raisesOnly_needBits hend s start start (len + 1)) fun _ =>
      raisesOnly_bind (raisesOnly_written _) fun b => ?_
    split
    · exact raisesOnly_pure _
    · exact ih _ _

theorem raisesOnly_vlcRead (t : List (VlcEntry α)) (pos : Nat) : raisesOnly i (vlcRead s t pos) :=
  raisesOnly_vlcScan hend hcode s t pos _ 0 0

theorem raisesOnly_readLevel (suffixLength : Nat) (first : Bool) (pos : Nat) :
    raisesOnly i (readLevel s suffixLength first pos) :=
  raisesOnly_bind (raisesOnly_countZeros hend hcode s pos 16 pos 0) fun r =>
    raisesOnly_bind (raisesOnly_needBits hend s pos r.2 _) fun _ =>
      raisesOnly_bind (raisesOnly_streamBits s r.2 _) fun _ => raisesOnly_pure _

theorem raisesOnly_readLevels (t1 n k suffixLength pos : Nat) :
    raisesOnly i (readLevels s t1 n k suffixLength pos) := by
  induction n generalizing k suffixLength pos with
  | zero => exact raisesOnly_pure _
  | succ n ih =>
    refine raisesOnly_ite ?trailingOne ?level
    case trailingOne =>
      exact raisesOnly_bind (raisesOnly_needBits hend s pos pos 1) fun _ => raisesOnly_bind (raisesOnly_written _)
        fun _ => raisesOnly_bind (ih (k + 1) suffixLength _) fun _ => raisesOnly_pure _
    case level =>
      exact raisesOnly_bind (raisesOnly_readLevel hend hcode s suffixLength _ pos) fun _ =>
        raisesOnly_bind (ih (k + 1) _ _) fun _ => raisesOnly_pure _

variable (hvalue : i.mayInvalidate = true)
include hvalue

theorem raisesOnly_readTotalZeros (mnc : Mnc) (tc pos : Nat) : raisesOnly i (readTotalZeros s mnc tc pos) :=
  raisesOnly_ite (raisesOnly_bind (raisesOnly_vlcRead hend hcode s _ pos) fun _ =>
    raisesOnly_bind (raisesOnly_requireValue hvalue) fun _ => raisesOnly_pure _) (raisesOnly_pure _)

theorem raisesOnly_readRuns (n zl pos : Nat) : raisesOnly i (readRuns s n zl pos) := by
  induction n generalizing zl pos with
  | zero => exact raisesOnly_pure _
  | succ n ih =>
    match n, ih with
    | 0, _ => exact raisesOnly_pure _
    | n + 1, ih =>
      refine raisesOnly_ite ?codeword ?noZerosLeft
      case codeword =>
        exact raisesOnly_bind (raisesOnly_vlcRead hend hcode s _ pos) fun _ =>
          raisesOnly_bind (raisesOnly_requireValue hvalue) fun _ =>
            raisesOnly_bind (ih _ _) fun _ => raisesOnly_pure _
      case noZerosLeft => exact raisesOnly_bind (ih zl pos) fun _ => raisesOnly_pure _

theorem raisesOnly_decodeBlock (pos : Nat) (nC : Int) (mnc : Mnc) : raisesOnly i (decodeBlock s pos nC mnc) := by
  refine raisesOnly_bind (raisesOnly_vlcRead hend hcode s _ pos) fun _ =>
    raisesOnly_bind (raisesOnly_requireValue hvalue) fun _ => raisesOnly_ite (raisesOnly_pure _) ?_
  exact raisesOnly_bind (raisesOnly_readLevels hend hcode s _ _ 0 _ _) fun _ =>
    raisesOnly_bind (raisesOnly_readTotalZeros hend hcode s hvalue mnc _ _) fun _ =>
      raisesOnly_bind (raisesOnly_readRuns hend hcode s hvalue _ _ _) fun _ => raisesOnly_pure _

end

end

/-! Every command. -/

/-- Every command is a computation that raises only the errors of its rules. -/
theorem exec_raisesOnly (i : Instr) (s : State) : ∃ c, exec i s = runCommand s c ∧ raisesOnly i c := by
  cases i with
  | nop | gridclr | bsmore | zero => exact ⟨_, rfl, raisesOnly_pure _⟩
  | setr | setrh => exact ⟨_, rfl, raisesOnly_bind (raisesOnly_legal id s) fun _ => raisesOnly_pure _⟩
  | qpdelta => exact ⟨_, rfl, raisesOnly_bind (raisesOnly_requireValue rfl) fun _ => raisesOnly_pure _⟩
  | bsrd | bspeek =>
    exact ⟨_, rfl, raisesOnly_bind (raisesOnly_legal id s) fun _ => raisesOnly_bind (raisesOnly_peekField rfl s _)
      fun _ => raisesOnly_pure _⟩
  | bsrdue | bsrdse => exact ⟨_, rfl, raisesOnly_bind (raisesOnly_readUe rfl rfl s _) fun _ => raisesOnly_pure _⟩
  | bsrdme =>
    exact ⟨_, rfl, raisesOnly_bind (raisesOnly_readUe rfl rfl s _) fun _ =>
      raisesOnly_bind (raisesOnly_requireValue rfl) fun _ => raisesOnly_pure _⟩
  | bswr => exact ⟨_, rfl, raisesOnly_bind (raisesOnly_legal id s) fun _ => raisesOnly_writeBits rfl s _⟩
  | bswrue | bswrse | bswrme =>
    exact ⟨_, rfl, raisesOnly_bind (raisesOnly_requireValue rfl) fun _ => raisesOnly_writeBits rfl s _⟩
  | bsalign fill =>
    cases fill with
    | true => exact ⟨_, rfl, raisesOnly_pure _⟩
    | false => exact ⟨_, rfl, raisesOnly_bind (raisesOnly_needBits rfl s _ _ _) fun _ => raisesOnly_pure _⟩
  | bstrail => exact ⟨_, rfl, raisesOnly_writeBits rfl s _⟩
  | cavlcdec =>
    exact ⟨_, rfl, raisesOnly_bind (raisesOnly_cavlcContext id rfl id s) fun _ =>
      raisesOnly_bind (raisesOnly_decodeBlock rfl rfl s rfl _ _ _) fun _ => raisesOnly_pure _⟩
  | cavlcenc =>
    refine ⟨_, rfl, raisesOnly_bind (raisesOnly_cavlcContext id rfl id s) fun _ =>
      raisesOnly_bind (raisesOnly_readElems s _ _) fun _ => ?_⟩
    split
    · exact raisesOnly_raiseValue rfl
    · exact raisesOnly_bind (raisesOnly_writeBits rfl s _) fun _ => raisesOnly_pure _
  | ncset plane =>
    refine ⟨_, rfl, raisesOnly_bind (raisesOnly_legal id s) fun _ => raisesOnly_bind (raisesOnly_checkPicture rfl s)
      fun _ => raisesOnly_bind (raisesOnly_requireValue rfl) fun _ => ?_⟩
    cases plane with
    | none => exact raisesOnly_pure _
    | some p => exact raisesOnly_ite (raisesOnly_pure _) (raisesOnly_pure _)
  | ncget plane =>
    refine ⟨_, rfl, raisesOnly_bind (raisesOnly_legal id s) fun _ => raisesOnly_bind (raisesOnly_checkPicture rfl s)
      fun _ => ?_⟩
    cases plane with
    | none => exact raisesOnly_raise rfl
    | some p =>
      exact raisesOnly_ite (raisesOnly_bind (raisesOnly_readNc rfl s p _ _) fun _ => raisesOnly_pure _)
        (raisesOnly_bind (raisesOnly_gridNc rfl s p _ _) fun _ => raisesOnly_pure _)
  | zzfwd | zzinv => exact ⟨_, rfl, raisesOnly_bind (raisesOnly_readElems s _ _) fun _ => raisesOnly_pure _⟩
  | fcore | idct =>
    exact ⟨_, rfl, raisesOnly_bind (raisesOnly_readSlot s _) fun _ => raisesOnly_storeBlock rfl s _ _⟩
  | fquant | fhadq | iquant | ihadq =>
    exact ⟨_, rfl, raisesOnly_bind (raisesOnly_checkQp rfl s) fun _ => raisesOnly_bind (raisesOnly_readSlot s _)
      fun _ => raisesOnly_storeBlock rfl s _ _⟩
  | pres =>
    exact ⟨_, rfl, raisesOnly_bind (raisesOnly_checkQp rfl s) fun _ => raisesOnly_bind (raisesOnly_readSlot s _)
      fun _ => raisesOnly_bind (raisesOnly_readSlot s _) fun _ => raisesOnly_storeBlock rfl s _ _⟩
  | emov => exact ⟨_, rfl, raisesOnly_bind (raisesOnly_written _) fun _ => raisesOnly_pure _⟩
  | ipred =>
    refine ⟨_, rfl, raisesOnly_bind (raisesOnly_checkPicture rfl s) fun _ =>
      raisesOnly_bind (raisesOnly_intraNeighbours s) fun _ => ?_⟩
    split
    · exact raisesOnly_raiseValue rfl
    · exact raisesOnly_pure _
  | ipsel =>
    refine ⟨_, rfl, raisesOnly_bind (raisesOnly_checkPicture rfl s) fun _ =>
      raisesOnly_bind (raisesOnly_intraNeighbours s) fun _ =>
        raisesOnly_bind (raisesOnly_readSampleList s.src id _) fun _ => ?_⟩
    split
    · exact raisesOnly_raiseValue rfl
    · exact raisesOnly_pure _
  | rsub =>
    exact ⟨_, rfl, raisesOnly_bind (raisesOnly_readSampleList _ _ _) fun _ =>
      raisesOnly_bind (raisesOnly_readSampleList _ _ _) fun _ => raisesOnly_pure _⟩
  | recon =>
    exact ⟨_, rfl, raisesOnly_bind (raisesOnly_checkPicture rfl s) fun _ =>
      raisesOnly_bind (raisesOnly_readSampleList _ _ _) fun _ => raisesOnly_bind (raisesOnly_readSlot s _) fun _ =>
        raisesOnly_pure _⟩
  | rcopy =>
    exact ⟨_, rfl, raisesOnly_bind (raisesOnly_checkPicture rfl s) fun _ =>
      raisesOnly_bind (raisesOnly_readSampleList s.pred id _) fun _ => raisesOnly_pure _⟩
  | mvpred =>
    exact ⟨_, rfl, raisesOnly_bind (raisesOnly_checkPicture rfl s) fun _ =>
      raisesOnly_bind (raisesOnly_predictMv rfl s) fun _ => raisesOnly_pure _⟩
  | mvset => exact ⟨_, rfl, raisesOnly_bind (raisesOnly_checkPicture rfl s) fun _ => raisesOnly_pure _⟩
  | mcopy =>
    exact ⟨_, rfl, raisesOnly_bind (raisesOnly_checkPicture rfl s) fun _ =>
      raisesOnly_bind (raisesOnly_readMv rfl s _ _) fun _ =>
        raisesOnly_bind (raisesOnly_readSampleList _ _ _) fun _ => raisesOnly_pure _⟩

/-- A state that an error end answers shows which error was raised: `DONE` tells it from a completion, and `ERRCODE`
names the error. -/
theorem mayRaise_of_exec_eq_errorEnd {i : Instr} {s : State} {e : ErrCode} {info : Nat}
    (h : exec i s = .next (errorEnd s e info)) : mayRaise i e := by
  obtain ⟨c, hexec, hc⟩ := exec_raisesOnly i s
  rw [hexec, runCommand_eq_next] at h
  obtain ⟨u, -, hu⟩ | ⟨e', info', hraise, hend⟩ := h
  · exact absurd (congrArg State.done hu) Bool.false_ne_true
  · obtain rfl : e = e' := congrArg State.errcode hend
    exact hc e info' hraise

/-! The check of the fields (60_exceptions.md R569, R570). -/

/-- A command whose first part raises an error. -/
theorem runCommand_bind_of_raise {α : Type} {c : Cmd α} {e : ErrCode} {info : Nat} (h : c = .error (.raise e info))
    (s : State) (f : α → Cmd State) : runCommand s (c >>= f) = .next (errorEnd s e info) := by
  rw [h, error_bind, runCommand_raise]

theorem cavlcContext_of_illegal {mnc : Mnc} {plane : Option Plane} {ncsel wb : Bool} {bx byy : Two}
    (h : cavlcFieldsOk mnc plane ncsel bx byy wb = false) (s : State) :
    cavlcContext mnc plane ncsel bx byy wb s = .error (.raise .illegalCommand (here s)) := by
  rw [cavlcContext_eq, h, legal_false, error_bind]

/-- The nine commands with a constraint on their fields check it first; the others have no ill-formed fields. -/
theorem exec_of_not_wellFormed {i : Instr} (h : i.wellFormed = false) (s : State) :
    exec i s = .next (errorEnd s .illegalCommand s.bitpos.toNat) := by
  have hlegal {ok : Bool} (hok : ok = false) : legal ok s = .error (.raise .illegalCommand (here s)) := by
    rw [hok, legal_false]
  cases i with
  | setr | setrh | bsrd | bspeek | bswr | ncset | ncget => exact runCommand_bind_of_raise (hlegal h) s _
  | cavlcdec | cavlcenc => exact runCommand_bind_of_raise (cavlcContext_of_illegal h s) s _
  | _ => cases h

/-- Settles O14: an error end is told from every other end, and every command raises only the errors of its rules. -/
theorem errorsAreRaisedByTheirCommands : Obligations.ErrorsAreRaisedByTheirCommands := by
  intro i s
  have hmay (e : ErrCode) (info : Nat) (h : exec i s = .next (errorEnd s e info)) : mayRaise i e :=
    mayRaise_of_exec_eq_errorEnd h
  exact ⟨fun h => exec_of_not_wellFormed h s, hmay .illegalCommand, hmay .unsupportedFeature,
    hmay .bitstreamExhausted, hmay .malformedVlcCode, hmay .invalidFieldValue, hmay .contextNotWritten,
    hmay .arithOverflow⟩

end Sys2Proof.Machine
end

section
/-! The checks of the configuration, and the register writes that make none (60_exceptions.md R571). -/

namespace Sys2Proof.Machine

section
variable {i : Instr} {s : State}

theorem exec_of_illegalQp (h : 51 < s.qp.toNat) (hi : i.readsQp = true) :
    exec i s = .next (errorEnd s .invalidFieldValue s.bitpos.toNat) := by
  have hcheck := checkQp_of_not (Nat.not_le_of_lt h)
  cases i with
  | fquant | fhadq | iquant | ihadq | pres => exact runCommand_bind_of_raise hcheck s _
  | _ => cases hi

theorem checkPicture_of_not_inPicture (h : ¬s.inPicture) :
    checkPicture s = .error (.raise .invalidFieldValue (here s)) :=
  checkPicture_of_not fun hok => h (inPicture_iff.mpr hok)

/-- A CAVLC command that uses the grid checks the picture before it reads nC (42_cavlc.md R310, R316). -/
theorem cavlcContext_of_not_inPicture {mnc : Mnc} {plane : Option Plane} {ncsel wb : Bool} {bx byy : Two}
    (hfields : cavlcFieldsOk mnc plane ncsel bx byy wb = true) (huses : usesGrid plane ncsel wb = true)
    (h : ¬s.inPicture) :
    cavlcContext mnc plane ncsel bx byy wb s = .error (.raise .invalidFieldValue (here s)) := by
  rw [cavlcContext_eq, hfields, legal_true, ok_bind, if_pos huses, checkPicture_of_not_inPicture h, error_bind]

theorem exec_of_not_inPicture (hfields : i.wellFormed = true) (h : ¬s.inPicture) (hi : i.usesPicture = true) :
    exec i s = .next (errorEnd s .invalidFieldValue s.bitpos.toNat) := by
  have hcheck := checkPicture_of_not_inPicture h
  cases i with
  | cavlcdec | cavlcenc => exact runCommand_bind_of_raise (cavlcContext_of_not_inPicture hfields hi h) s _
  | ncset => exact exec_ncset_of_value hfields fun hok => h hok.1
  | ncget plane bx byy =>
    have hlegal : ncgetFieldsOk plane bx byy = true := hfields
    simp only [exec, execNcget, hlegal, legal_true, ok_bind]
    exact runCommand_bind_of_raise hcheck s _
  | ipred | ipsel | recon | rcopy | mvpred | mvset | mcopy => exact runCommand_bind_of_raise hcheck s _
  | _ => cases hi

/-- `SETR` checks its `rsel` and no value. -/
theorem exec_setr_of_writable {rsel : BitVec 6} (h6 : 6 ≤ rsel.toNat) (h14 : rsel.toNat ≤ 14) (imm : BitVec 16) :
    exec (.setr rsel imm) s = .next (complete (writeReg s rsel.toNat (setrValue imm))) := by
  rw [exec, execSetr, legal_of_writable h6 h14, ok_bind, pure_eq_ok, runCommand_ok]

/-- The low bits of the extended immediate are the immediate's (30_encoding.md R170). -/
theorem setWidth_setrValue {w : Nat} (hw : w ≤ 16) (imm : BitVec 16) :
    (setrValue imm).setWidth w = imm.setWidth w := by
  ext j hj
  simp only [setrValue, BitVec.getElem_setWidth, BitVec.getLsbD_signExtend]
  rw [decide_eq_true (by omega), if_pos (by omega), Bool.true_and]

/-- An idle host write to a writable register checks no value (10_state.md R71). -/
theorem step_of_registerWrite {off : Word} (h6 : 6 ≤ off.toNat / 4) (h14 : off.toNat / 4 ≤ 14)
    (hbusy : s.busy = false) (v : Word) :
    step { s with host := [⟨false, .write off v⟩] }
      = .next (writeReg { s with host := [] } (off.toNat / 4) v) := by
  rw [step_of_write (s := { s with host := _ }) rfl rfl (fun hb => absurd hb (by simp [hbusy])),
    busWrite_register (s := { s with host := [] }) v hbusy (by omega) (by omega) (by omega) (by omega)]

end

/-- Settles O16: each check is the first one after that of the fields, and a register write has none. -/
theorem configurationChecks : Obligations.ConfigurationChecks := by
  refine ⟨fun s i hfields => ⟨exec_of_illegalQp, fun hqp hi => ?qpdelta, exec_of_not_inPicture hfields⟩,
    fun s imm => ?setr, fun s v hbusy => ?host⟩
  case qpdelta =>
    subst hi
    exact (qpdeltaWrapsModulo52 s).2 hqp
  case setr =>
    refine ⟨⟨_, exec_setr_of_writable ?_ ?_ imm, rfl, setWidth_setrValue (by decide) imm⟩,
      ⟨_, exec_setr_of_writable ?_ ?_ imm, rfl, setWidth_setrValue (by decide) imm⟩,
      ⟨_, exec_setr_of_writable ?_ ?_ imm, rfl, (setWidth_setrValue (by decide) imm).trans imm.setWidth_eq⟩,
      ⟨_, exec_setr_of_writable ?_ ?_ imm, rfl, (setWidth_setrValue (by decide) imm).trans imm.setWidth_eq⟩⟩
    all_goals decide
  case host =>
    refine ⟨⟨_, step_of_registerWrite ?_ ?_ hbusy v, rfl⟩, ⟨_, step_of_registerWrite ?_ ?_ hbusy v, rfl⟩,
      ⟨_, step_of_registerWrite ?_ ?_ hbusy v, rfl⟩, ⟨_, step_of_registerWrite ?_ ?_ hbusy v, rfl⟩⟩
    all_goals decide

end Sys2Proof.Machine
end
